-- ==== Sys2Proof/Word.lean ====
section
/-! DEFINITION. Bytes and the fixed-size byte sequences of the spec (00_scope.md R14, R15; 20_memory.md R45, R46, R47). -/

namespace Sys2Proof

/-- A byte: a vector of 8 bits, bit 7 the most significant (R14). -/
abbrev Byte := BitVec 8

/-- A word: a sequence of four bytes, `b0` at the lowest address; never an integer (R46). It is also one column of
the State Matrix, `b0` in row 0 (R45). -/
structure Word where
  b0 : Byte
  b1 : Byte
  b2 : Byte
  b3 : Byte
  deriving DecidableEq, Repr, Inhabited

/-- A sequence of 16 bytes (R15): a key, a block, a round key, or the State Matrix laid out column by column, so that
`c0` holds bytes 0 to 3 and is column 0 (R45). -/
structure Block where
  c0 : Word
  c1 : Word
  c2 : Word
  c3 : Word
  deriving DecidableEq, Repr, Inhabited

/-- The Round Key Schedule: eleven round keys, number 0 first (R21, R47). -/
abbrev Schedule := Vector Block 11

/-- A 4 by 4 matrix of bytes given by its rows (R90, R91). -/
structure Matrix where
  r0 : Word
  r1 : Word
  r2 : Word
  r3 : Word
  deriving DecidableEq, Repr

end Sys2Proof
end

