-- ==== Sys2Proof/Syntax.lean ====
section
/-! DEFINITION. The commands of the core: one constructor per row of spec/opcode_table.json (R3, R62). -/

namespace Sys2Proof

/-- A command with its operand `bytes(din)` (R63). -/
inductive Instr where
  /-- KEYEXP: compute the schedule of a key (R100). -/
  | keyexp (key : Block)
  /-- ENC: the forward transform of one block (R115). -/
  | enc (block : Block)
  /-- DEC: the inverse transform of one block (R135). -/
  | dec (block : Block)
  deriving DecidableEq, Repr

end Sys2Proof
end

