-- ==== Sys2Proof/Machine/Operands.lean ====
section
/-! DEFINITION. The views of byte sequences that the rules use: bytes of words and blocks, the 128-bit ports, the State
Matrix, the operand and the code of a command, the 176 bytes of a schedule (00_scope.md R15, R16; 20_memory.md R41, R44 to R48; 30_encoding.md R63). -/

namespace Sys2Proof

/-- Byte `j` of a word (R46). -/
def Word.byte (w : Word) (j : Fin 4) : Byte :=
  match j with
  | 0 => w.b0
  | 1 => w.b1
  | 2 => w.b2
  | 3 => w.b3

/-- The word whose byte `j` is `f j`. -/
def Word.ofFn (f : Fin 4 → Byte) : Word := ⟨f 0, f 1, f 2, f 3⟩

/-- The bytes of a word, lowest address first (R46). -/
def Word.toList (w : Word) : List Byte := [w.b0, w.b1, w.b2, w.b3]

/-- Byte-by-byte exclusive-or of two words (R17). -/
def Word.xor (a b : Word) : Word := ⟨a.b0 ^^^ b.b0, a.b1 ^^^ b.b1, a.b2 ^^^ b.b2, a.b3 ^^^ b.b3⟩

/-- The word with `f` applied to each of its bytes. -/
def Word.map (f : Byte → Byte) (w : Word) : Word := ⟨f w.b0, f w.b1, f w.b2, f w.b3⟩

/-- Word `c` of a round key, which is column `c` of the State Matrix (R45, R46). -/
def Block.word (x : Block) (c : Fin 4) : Word :=
  match c with
  | 0 => x.c0
  | 1 => x.c1
  | 2 => x.c2
  | 3 => x.c3

/-- `X[i]`, byte `i` of a sequence of 16 bytes (R15). -/
def Block.byte (x : Block) (i : Fin 16) : Byte :=
  (x.word ⟨i.val / 4, by omega⟩).byte ⟨i.val % 4, by omega⟩

/-- `s[r][c]`, row `r` and column `c` of the State Matrix (R45). -/
def Block.cell (x : Block) (r c : Fin 4) : Byte := (x.word c).byte r

/-- The sequence of 16 bytes whose byte `i` is `f i`. -/
def Block.ofFn (f : Fin 16 → Byte) : Block :=
  ⟨⟨f 0, f 1, f 2, f 3⟩, ⟨f 4, f 5, f 6, f 7⟩, ⟨f 8, f 9, f 10, f 11⟩, ⟨f 12, f 13, f 14, f 15⟩⟩

/-- The sequence of 16 bytes whose word `c` is `f c`. -/
def Block.ofWords (f : Fin 4 → Word) : Block := ⟨f 0, f 1, f 2, f 3⟩

/-- The bytes of a sequence, byte 0 first (R15). -/
def Block.toList (x : Block) : List Byte := x.c0.toList ++ x.c1.toList ++ x.c2.toList ++ x.c3.toList

/-- The sequence of 16 bytes with the bytes of a list; a list of another length is no key and no block (R49, U2). -/
def Block.ofList : List Byte → Option Block
  | [a0, a1, a2, a3, a4, a5, a6, a7, a8, a9, a10, a11, a12, a13, a14, a15] =>
    some ⟨⟨a0, a1, a2, a3⟩, ⟨a4, a5, a6, a7⟩, ⟨a8, a9, a10, a11⟩, ⟨a12, a13, a14, a15⟩⟩
  | _ => none

/-- Byte-by-byte exclusive-or of two sequences of 16 bytes (R17). -/
def Block.xor (x y : Block) : Block := ⟨x.c0.xor y.c0, x.c1.xor y.c1, x.c2.xor y.c2, x.c3.xor y.c3⟩

/-- The sequence with `f` applied to each of its 16 bytes. -/
def Block.map (f : Byte → Byte) (x : Block) : Block := ⟨x.c0.map f, x.c1.map f, x.c2.map f, x.c3.map f⟩

/-- The sequence with `f` applied to each of its four columns. -/
def Block.mapWords (f : Word → Word) (x : Block) : Block := ⟨f x.c0, f x.c1, f x.c2, f x.c3⟩

/-- `v[127-8*i : 120-8*i]`, the slice of a port that carries byte `i` (R16, R44). -/
def portByte (v : BitVec 128) (i : Fin 16) : Byte := v.extractLsb' (120 - 8 * i.val) 8

/-- `bytes(v)`: byte 0 is the most significant byte of the port (R16, R44, R63). -/
def bytesOfPort (v : BitVec 128) : Block := Block.ofFn (portByte v)

/-- A word laid on 32 port bits, `b0` the most significant (R44). -/
def Word.toBits (w : Word) : BitVec 32 := w.b0 ++ w.b1 ++ w.b2 ++ w.b3

/-- `pack(X)`, the inverse of `bytes` (R16, R30). -/
def packPort (x : Block) : BitVec 128 := x.c0.toBits ++ x.c1.toBits ++ x.c2.toBits ++ x.c3.toBits

/-- The operand of a command. -/
def Instr.operand : Instr → Block
  | .keyexp key => key
  | .enc block => block
  | .dec block => block

/-- The `op` code of a command (R62). -/
def Instr.opcode : Instr → BitVec 2
  | .keyexp _ => 0b01#2
  | .enc _ => 0b10#2
  | .dec _ => 0b11#2

/-- Schedule byte `a` is byte `a mod 16` of round key `a div 16` (R41). -/
def scheduleByte (rk : Schedule) (a : Fin 176) : Byte :=
  (rk[a.val / 16]'(by omega)).byte ⟨a.val % 16, by omega⟩

/-- The schedule whose byte at address `a` is `f a` (R41). -/
def scheduleOfFn (f : Fin 176 → Byte) : Schedule :=
  Vector.ofFn fun r => Block.ofFn fun i => f ⟨16 * r.val + i.val, by omega⟩

/-- The 176 bytes of a schedule in rising address order (R47). -/
def scheduleBytes (rk : Schedule) : List Byte := rk.toList.flatMap Block.toList

/-- `MemRead(RK, a, n)`: defined for `a + n <= 176` only (R18, R41). -/
def memRead (rk : Schedule) (a n : Nat) : Option (List Byte) :=
  if a + n ≤ 176 then some (((scheduleBytes rk).drop a).take n) else none

/-- `MemWrite(RK, a, n, v)` with `n` the length of `v`: defined for `a + n <= 176` only (R18, R41). -/
def memWrite (rk : Schedule) (a : Nat) (v : List Byte) : Option Schedule :=
  if a + v.length ≤ 176 then
    some (scheduleOfFn fun x =>
      if h : a ≤ x.val ∧ x.val < a + v.length then v[x.val - a]'(by omega) else scheduleByte rk x)
  else none

end Sys2Proof
end

