-- ==== Sys2Proof/WellFormed.lean ====
section
/-! DEFINITION. What a well-formed command is. RSPEC asks that a wrong length be impossible by type (20_memory.md R49,
U2), and `Block` is that type; the checks below say it for raw data that comes from outside the type. -/

namespace Sys2Proof

/-- A raw operand is well formed when it has exactly 16 bytes (R9, R49); every value is legal (R63). -/
def operandWellFormed (bytes : List Byte) : Bool := bytes.length == 16

/-- A command code is a command unless it is `00` (R62, R66). -/
def codeWellFormed (op : BitVec 2) : Bool := op != 0#2

/-- A command is well formed when its code is one and its operand has 16 bytes. By the types every command is. -/
def Instr.wellFormed (i : Instr) : Bool := codeWellFormed i.opcode && operandWellFormed i.operand.toList

end Sys2Proof
end

