-- ==== Sys2Proof/Decode.lean ====
section
/-! DEFINITION. Command words of 130 bits, the decoder and the encoder (30_encoding.md R60, R62, R63, R65, R66). -/

namespace Sys2Proof

/-- A command word `CW` (R60). -/
abbrev CommandWord := BitVec 130

/-- What the decoder reads from a command word; `noCommand` is the name of what it rejects (R66). -/
inductive Decoded where
  | command (i : Instr)
  | noCommand
  deriving DecidableEq, Repr

/-- `CW = op || din` (R60). -/
def commandWord (op : BitVec 2) (din : BitVec 128) : CommandWord := op ++ din

/-- `CW[129:128]` (R60). -/
def commandOp (cw : CommandWord) : BitVec 2 := cw.extractLsb' 128 2

/-- `CW[127:0]` (R60). -/
def commandDin (cw : CommandWord) : BitVec 128 := cw.extractLsb' 0 128

/-- The decoder of R62, total on all words: `00` is not a command (R66). -/
def decode (cw : CommandWord) : Decoded :=
  if commandOp cw = 0b01#2 then .command (.keyexp (bytesOfPort (commandDin cw)))
  else if commandOp cw = 0b10#2 then .command (.enc (bytesOfPort (commandDin cw)))
  else if commandOp cw = 0b11#2 then .command (.dec (bytesOfPort (commandDin cw)))
  else .noCommand

/-- The command word of a command (R60, R62, R63). -/
def encode (i : Instr) : CommandWord := commandWord i.opcode (packPort i.operand)

/-- A row of the opcode table: a word is this command when its masked bits equal the pattern (R62, R65). -/
structure OpcodeRow where
  mnemonic : String
  pattern : CommandWord
  mask : CommandWord
  command : Block → Instr

/-- The three rows of spec/opcode_table.json (R62, R65). -/
def opcodeTable : List OpcodeRow :=
  [⟨"KEYEXP", 0x100000000000000000000000000000000#130, 0x300000000000000000000000000000000#130, .keyexp⟩,
   ⟨"ENC", 0x200000000000000000000000000000000#130, 0x300000000000000000000000000000000#130, .enc⟩,
   ⟨"DEC", 0x300000000000000000000000000000000#130, 0x300000000000000000000000000000000#130, .dec⟩]

/-- The command word whose bits are `w`, numbered as the opcode table numbers them: one word of 130 bits, bit 0 the
least significant bit of `din` (R60, R65). Bits from `nbits` on are 0, and a bit above 129 is no wire of the port. -/
def tableWord (nbits w : Nat) : CommandWord := BitVec.ofNat 130 (w % 2 ^ nbits)

/-- The command the decoder reads from the word whose bits are `w`. -/
def decodeTableWord (nbits w : Nat) : Option Instr :=
  match decode (tableWord nbits w) with
  | .command i => some i
  | .noCommand => none

end Sys2Proof
end

