-- ==== Sys2Proof/Config.lean ====
section
/-! DEFINITION. What an implementation fixes, and the free values of the spec's open points. Nothing here has a body
that a proof could lean on, so whatever is proved holds for every choice. -/

namespace Sys2Proof.Config

/-- Clock cycles beyond the first from acceptance to completion of KEYEXP (R10, D11: OPEN). -/
opaque extraKeyexp : Nat

/-- Clock cycles beyond the first from acceptance to completion of ENC (R10, D11: OPEN). -/
opaque extraEnc : Nat

/-- Clock cycles beyond the first from acceptance to completion of DEC (R10, D11: OPEN). -/
opaque extraDec : Nat

/-- `LAT_KEYEXP`, a positive integer (R10). -/
def latKeyexp : Nat := extraKeyexp + 1

/-- `LAT_ENC`, a positive integer (R10). -/
def latEnc : Nat := extraEnc + 1

/-- `LAT_DEC`, a positive integer (R10). -/
def latDec : Nat := extraDec + 1

/-- The 176 bytes of `RK` where the spec leaves them unspecified: after a Reset (R33, R176, U5) and after power was
removed (R168, U12). The argument numbers the draw. Log entry 2. -/
opaque freeSchedule : Nat → Schedule

/-- The flag `SV` after power was removed (R168, R177, U12). Log entry 6. -/
opaque freeSv : Nat → Bool

/-- The register `BLK` after power was removed (R168, R177, U12). Log entry 6. -/
opaque freeBlk : Nat → Option Block

/-- The output `done` after power was removed (R177: every item of state is unspecified). Log entry 6. -/
opaque freeDone : Nat → Bool

end Sys2Proof.Config
end

