-- ==== Sys2Proof/Machine/State.lean ====
section
/-! DEFINITION. The state of the core and of the host that drives it, the faults and refusals, the state after Reset
(10_state.md R20 to R37; 70_reset_and_hazards.md R175, R186). -/

namespace Sys2Proof.Machine

/-- Where the core stands in its handshake (R28, R35). -/
inductive Phase where
  /-- Idle: `ready` = 1 and a command can be accepted. -/
  | idle
  /-- A command with its latched operand (R29) is in progress, `ready` = 0, and completes at the `left`-th edge. -/
  | busy (command : Instr) (left : Nat)
  /-- Power was applied and no Reset yet: nothing is specified (R168, R177, U8). Log entry 6. -/
  | unreset
  deriving DecidableEq, Repr

/-- The input pins as one rising edge of `clk` samples them (R30). -/
structure Pins where
  rst : Bool
  start : Bool
  op : BitVec 2
  din : BitVec 128
  deriving DecidableEq, Repr

/-- One move of the host (R11, R28, R186). -/
inductive HostMove where
  /-- Assert `rst`: the Reset event (R175). -/
  | reset
  /-- Remove the power and bring it back (R168). -/
  | power
  /-- Offer a command word and hold the offer until it is accepted and has completed (R28, R179). -/
  | command (op : BitVec 2) (din : BitVec 128)
  /-- Read the ports when `ready` = 1: `dout` and `sv`, or `sv` only (R26, R28, R31). -/
  | read (usesDout : Bool)
  /-- Drive the pins through one rising edge of `clk` (R28, R30). -/
  | edge (pins : Pins)
  deriving DecidableEq, Repr

/-- What one read of the host returned: `dout` where the read used it, and `sv` (R28). -/
structure Sample where
  dout : Option (BitVec 128)
  sv : Bool
  deriving DecidableEq, Repr

/-- The state. `rk`, `sv`, `blk` are the whole architectural state of the core (R20); `phase` and `done` are its
handshake (R28, R35); `host`, `reads`, `draws` are the model's own (log entries 1, 2, 3). -/
structure State where
  /-- `RK`, the Round Key Schedule (R21). -/
  rk : Schedule
  /-- `SV`, 1 when a schedule is present (R23). -/
  sv : Bool
  /-- `BLK`, the result of the last completed transform; `none` is the spec's own 'unwritten' (R26). -/
  blk : Option Block
  /-- `ready` and the command in progress (R28, R29). -/
  phase : Phase
  /-- The output `done`: 1 in the cycle after a completion (R28, R30). -/
  done : Bool
  /-- The host's further moves, oldest first. -/
  host : List HostMove
  /-- What the host's reads returned, oldest first. -/
  reads : List Sample
  /-- How many free values have been taken. -/
  draws : Nat
  deriving DecidableEq, Repr

/-- Why the machine stops with a fault: the two bad outcomes of R13, both safe, since the hardware goes on with a
value that the spec does not give. -/
inductive Fault where
  /-- Raised by ENC and DEC accepted while `SV` = 0, at acceptance and before any change (R13, R158, R160; D4; U1).
  Safe. -/
  | noSchedule
  /-- Raised by a read that uses `dout` before any transform has completed since Reset (R13, R26, R157, the table of
  R186; D18; U6 'fault on use'); the spec says that the run stops there (R161). Safe. -/
  | readUnwritten
  deriving DecidableEq, Repr

/-- Why a step has no meaning. -/
inductive Refusal where
  /-- Raised by exec for a command without a meaning yet; no command is one. Safe. -/
  | notModelled (mnemonic : String)
  /-- Raised by every move but Reset, and by every edge without `rst`, between power-up and the first Reset: a run
  starts with Reset (R177, R186, U8 'refuse'). Safe. -/
  | beforeReset
  deriving DecidableEq, Repr

/-- The machine right after Reset (R33): `SV` = 0, `BLK` unwritten, `ready` = 1, `done` = 0, `RK` unspecified, hence
the free value of draw 0 (log entry 2). The host has no move yet and has read nothing. -/
def State.reset : State where
  rk := Config.freeSchedule 0
  sv := false
  blk := none
  phase := .idle
  done := false
  host := []
  reads := []
  draws := 1

end Sys2Proof.Machine
end

