-- ==== Sys2Proof/Machine/Ops.lean ====
section
/-! DEFINITION. The named operations on the state: one update per field, the Reset and power events, the output ports,
the read of the ports (10_state.md R26, R28, R30 to R33; 60_exceptions.md R168; 70_reset_and_hazards.md R175, R176).
The core takes no exception and returns from none (R155, R161), so there is no operation for either. -/

namespace Sys2Proof.Machine

/-- Write all 176 bytes of `RK`, indivisibly (R21, R51). -/
def State.setRk (s : State) (v : Schedule) : State := { s with rk := v }

/-- Write `SV` (R23). -/
def State.setSv (s : State) (v : Bool) : State := { s with sv := v }

/-- Write `BLK`, indivisibly (R25, R51). -/
def State.setBlk (s : State) (v : Option Block) : State := { s with blk := v }

/-- Move the handshake (R28). -/
def State.setPhase (s : State) (v : Phase) : State := { s with phase := v }

/-- Drive `done` (R28). -/
def State.setDone (s : State) (v : Bool) : State := { s with done := v }

/-- The host's remaining moves. -/
def State.setHost (s : State) (v : List HostMove) : State := { s with host := v }

/-- Record what a read returned. -/
def State.addRead (s : State) (v : Sample) : State := { s with reads := s.reads ++ [v] }

/-- Count a free value as taken. -/
def State.countDraw (s : State) : State := { s with draws := s.draws + 1 }

/-- The output `ready` (R28, R35). -/
def State.ready (s : State) : Bool := s.phase == .idle

/-- The pulse of `done` when a command completes (R28). -/
def State.pulseDone (s : State) : State := s.setDone true

/-- An edge at which nothing is accepted and nothing completes: the `done` pulse of one cycle is over (R28, R66). -/
def State.quietEdge (s : State) : State := s.setDone false

/-- The Reset event, at any time, a command in progress included, which it abandons: `SV` = 0, `BLK` unwritten,
`ready` = 1, `done` = 0, and `RK` unspecified, hence a free value (R33, R175, R176). -/
def State.resetEvent (s : State) : State :=
  (((((s.setRk (Config.freeSchedule s.draws)).setSv false).setBlk none).setPhase .idle).setDone false).countDraw

/-- Power removed and returned: every item is unspecified until Reset (R168, R177, U12). -/
def State.powerEvent (s : State) : State :=
  (((((s.setRk (Config.freeSchedule s.draws)).setSv (Config.freeSv s.draws)).setBlk (Config.freeBlk s.draws)).setPhase
    .unreset).setDone (Config.freeDone s.draws)).countDraw

/-- The output ports (R30). A port whose value the spec does not define is `none`: `dout` while `BLK` is unwritten
(R26), `dout` and `sv` while a command is in progress (R31). There is no port that shows `RK` (R36). -/
structure Outputs where
  ready : Bool
  done : Bool
  dout : Option (BitVec 128)
  sv : Option Bool
  deriving DecidableEq, Repr

/-- The output ports of a state; none of them is specified before the first Reset (R30, R31, R177). -/
def State.outputs (s : State) : Option Outputs :=
  match s.phase with
  | .idle => some ⟨true, s.done, s.blk.map packPort, some s.sv⟩
  | .busy _ _ => some ⟨false, s.done, none, none⟩
  | .unreset => none

/-- A read of the ports with `ready` = 1: it records `sv`, and `dout` where it uses it; using `dout` while `BLK` is
unwritten is the fault the spec names, and the run stops (R13, R26, R157, R161, R186; D18; U6). A read changes no state
of the core (R32). -/
def readPorts (usesDout : Bool) (s : State) : Host.Outcome State Fault Refusal :=
  if usesDout then
    match s.blk with
    | some b => .next (s.addRead ⟨some (packPort b), s.sv⟩)
    | none => .fault .readUnwritten
  else .next (s.addRead ⟨none, s.sv⟩)

end Sys2Proof.Machine
end

