-- ==== Sys2Proof/Machine/Flags.lean ====
section
/-! DEFINITION. The one flag of the core, `SV`: who needs it and who sets it (10_state.md R23; 60_exceptions.md R158).
There is no other flag and no condition code (R23, R93). -/

namespace Sys2Proof.Machine

/-- ENC and DEC need a schedule; KEYEXP is legal without one (R100, R115, R135). -/
def needsSchedule : Instr → Bool
  | .keyexp _ => false
  | .enc _ => true
  | .dec _ => true

/-- The precondition `SV` = 1 of a transform: without it the fault `NoSchedule`, before any change (R158, R160). -/
def withSchedule (s : State) (go : State → Host.Outcome State Fault Refusal) : Host.Outcome State Fault Refusal :=
  if s.sv then go s else .fault .noSchedule

/-- Install a schedule and mark it present (R23, R100). -/
def State.installSchedule (s : State) (v : Schedule) : State := (s.setRk v).setSv true

end Sys2Proof.Machine
end

