-- ==== Sys2Proof/Machine/Forward.lean ====
section
/-! DEFINITION. The round functions of the forward transform, `Cipher`, and the meaning of ENC (42_forward_encrypt.md R115 to R123). A state
is the flat sequence of 16 bytes; loading and storing the State Matrix is the identity on it (R116). -/

namespace Sys2Proof

/-- AddRoundKey (R117, R139). -/
def addRoundKey (x k : Block) : Block := x.xor k

/-- SubBytes (R118). -/
def subBytes (x : Block) : Block := x.map sbox

/-- ShiftRows: row `r` rotated left by `r` places, in the flat form (R119). -/
def shiftRows (x : Block) : Block :=
  ⟨⟨x.c0.b0, x.c1.b1, x.c2.b2, x.c3.b3⟩, ⟨x.c1.b0, x.c2.b1, x.c3.b2, x.c0.b3⟩,
   ⟨x.c2.b0, x.c3.b1, x.c0.b2, x.c1.b3⟩, ⟨x.c3.b0, x.c0.b1, x.c1.b2, x.c2.b3⟩⟩

/-- MixColumns: each column multiplied by `MIX` (R120). -/
def mixColumns (x : Block) : Block := x.mapWords (matrixTimesColumn mixMatrix)

/-- A full round with the round key `k` (R121). -/
def forwardRound (x k : Block) : Block := addRoundKey (mixColumns (shiftRows (subBytes x))) k

/-- The final round, without MixColumns (R122). -/
def finalRound (x k : Block) : Block := addRoundKey (shiftRows (subBytes x)) k

/-- The numbers of the full rounds in the order they run, 1 to 9 (R123). -/
def forwardRoundNumbers : List (Fin 11) := [1, 2, 3, 4, 5, 6, 7, 8, 9]

/-- `Cipher(B, RK)` (R123). -/
def cipher (b : Block) (rk : Schedule) : Block :=
  finalRound (forwardRoundNumbers.foldl (fun x r => forwardRound x rk[r]) (addRoundKey b rk[0])) rk[10]

end Sys2Proof

namespace Sys2Proof.Machine

/-- ENC: with `SV` = 1 the result goes to `BLK`, `RK` and `SV` are kept; `done` pulses (R28, R32, R115). -/
def execEnc (block : Block) (s : State) : Host.Outcome State Fault Refusal :=
  withSchedule s fun s => .next (s.setBlk (some (cipher block s.rk))).pulseDone

end Sys2Proof.Machine
end

