-- ==== Sys2Proof/Machine/Inverse.lean ====
section
/-! DEFINITION. The round functions of the inverse transform, `InvCipher`, and the meaning of DEC (43_inverse_decrypt.md R135 to R145). -/

namespace Sys2Proof

/-- InvShiftRows: row `r` rotated right by `r` places, in the flat form (R136). -/
def invShiftRows (x : Block) : Block :=
  ⟨⟨x.c0.b0, x.c3.b1, x.c2.b2, x.c1.b3⟩, ⟨x.c1.b0, x.c0.b1, x.c3.b2, x.c2.b3⟩,
   ⟨x.c2.b0, x.c1.b1, x.c0.b2, x.c3.b3⟩, ⟨x.c3.b0, x.c2.b1, x.c1.b2, x.c0.b3⟩⟩

/-- InvSubBytes (R137). -/
def invSubBytes (x : Block) : Block := x.map invSbox

/-- InvMixColumns: each column multiplied by `INVMIX` (R138). -/
def invMixColumns (x : Block) : Block := x.mapWords (matrixTimesColumn invMixMatrix)

/-- An inverse round with the round key `k`: AddRoundKey before InvMixColumns (R140, R144). -/
def inverseRound (x k : Block) : Block := invMixColumns (addRoundKey (invSubBytes (invShiftRows x)) k)

/-- The final step, without InvMixColumns (R140). -/
def inverseFinal (x k : Block) : Block := addRoundKey (invSubBytes (invShiftRows x)) k

/-- The numbers of the inverse rounds in the order they run, 9 down to 1 (R141). -/
def inverseRoundNumbers : List (Fin 11) := [9, 8, 7, 6, 5, 4, 3, 2, 1]

/-- `InvCipher(B, RK)`, on the schedule as KEYEXP wrote it (R141, R145). -/
def invCipher (b : Block) (rk : Schedule) : Block :=
  inverseFinal (inverseRoundNumbers.foldl (fun x r => inverseRound x rk[r]) (addRoundKey b rk[10])) rk[0]

end Sys2Proof

namespace Sys2Proof.Machine

/-- DEC: with `SV` = 1 the result goes to `BLK`, `RK` and `SV` are kept; `done` pulses (R28, R32, R135). -/
def execDec (block : Block) (s : State) : Host.Outcome State Fault Refusal :=
  withSchedule s fun s => .next (s.setBlk (some (invCipher block s.rk))).pulseDone

end Sys2Proof.Machine
end

