-- ==== Sys2Proof/Machine/KeyExpansion.lean ====
section
/-! DEFINITION. Key expansion and the meaning of KEYEXP (41_key_expansion.md R100 to R108). -/

namespace Sys2Proof

/-- RotWord: `[w0, w1, w2, w3]` becomes `[w1, w2, w3, w0]` (R102). -/
def rotWord (w : Word) : Word := ⟨w.b1, w.b2, w.b3, w.b0⟩

/-- SubWord: each byte through `SBOX` (R103). -/
def subWord (w : Word) : Word := w.map sbox

/-- The round constant as a word, `{ x, 0, 0, 0 }` (R104). -/
def rconWord (r : Fin 10) : Word := ⟨rcon r, 0#8, 0#8, 0#8⟩

/-- The transformed last word `T(r + 1)` of the round key before: rotate, substitute, add the constant (R105). -/
def transformedWord (p : Block) (r : Fin 10) : Word := (subWord (rotWord p.c3)).xor (rconWord r)

/-- Round key `r + 1` from round key `r`: four new words, each from the one before it (R106, R107). -/
def nextRoundKey (p : Block) (r : Fin 10) : Block :=
  let n0 := p.c0.xor (transformedWord p r)
  let n1 := p.c1.xor n0
  let n2 := p.c2.xor n1
  let n3 := p.c3.xor n2
  ⟨n0, n1, n2, n3⟩

/-- Round key `r` of a key: the raw key for 0, each later one from its predecessor (R101, R108). -/
def expandedKey (key : Block) : Fin 11 → Block := Fin.induction key fun r previous => nextRoundKey previous r

/-- `KeyExpansion(K)`: the eleven round keys (R108). -/
def keyExpansion (key : Block) : Schedule := Vector.ofFn (expandedKey key)

end Sys2Proof

namespace Sys2Proof.Machine

/-- KEYEXP: all 176 bytes of `RK` written, `SV` set, `BLK` kept, no precondition; `done` pulses (R28, R32, R100). -/
def execKeyexp (key : Block) (s : State) : Host.Outcome State Fault Refusal :=
  .next (s.installSchedule (keyExpansion key)).pulseDone

end Sys2Proof.Machine
end

