-- ==== Sys2Proof/Machine/Clock.lean ====
section
/-! DEFINITION. The handshake edge by edge: acceptance, latching, the busy time, completion, Reset at any edge
(10_state.md R28, R29, R31; 60_exceptions.md R160; 70_reset_and_hazards.md R176, R179, R181). -/

namespace Sys2Proof.Machine

/-- `LAT_op`, the clock cycles from acceptance to completion (R10, R28). -/
def latency : Instr → Nat
  | .keyexp _ => Config.latKeyexp
  | .enc _ => Config.latEnc
  | .dec _ => Config.latDec

/-- The command in progress completes: its writes take effect together, `ready` = 1 again, `done` pulses (R28, R51). -/
def finish (i : Instr) (s : State) : Host.Outcome State Fault Refusal := exec i (s.setPhase .idle)

/-- The core accepts a command at an edge and latches it: `ready` = 0 from the next cycle, and the missing schedule of
a transform is decided here (R28, R29, R160). -/
def accept (i : Instr) (s : State) : Host.Outcome State Fault Refusal :=
  if needsSchedule i && !s.sv then .fault .noSchedule
  else .next (s.quietEdge.setPhase (.busy i (latency i)))

/-- One rising edge of `clk` without `rst`, in the phase the core is in. An offer while busy is not accepted and not
queued (R28, R179); `op` = `00` is the same as `start` = 0 (R66). -/
def clockedPhase (p : Pins) (s : State) : Host.Outcome State Fault Refusal :=
  match s.phase with
  | .idle =>
    if p.start then
      match decode (commandWord p.op p.din) with
      | .command i => accept i s
      | .noCommand => .next s.quietEdge
    else .next s.quietEdge
  | .busy i left =>
    if left ≤ 1 then finish i s else .next (s.quietEdge.setPhase (.busy i (left - 1)))
  | .unreset => .refused .beforeReset

/-- One rising edge of `clk`: Reset wins over an offer and over a command in progress (R160, R176). -/
def clockEdge (p : Pins) (s : State) : Host.Outcome State Fault Refusal :=
  if p.rst then .next s.resetEvent else clockedPhase p s

end Sys2Proof.Machine
end

