-- ==== Sys2Proof/Machine/HostMoves.lean ====
section
/-! DEFINITION. The moves of the host at the transaction level (10_state.md R28, R31; 70_reset_and_hazards.md R175, R177,
R179, R186). Each takes the move off the list and acts, or, while a command is in progress, lets the core complete it
first and keeps the move. -/

namespace Sys2Proof.Machine

/-- A move that waits for `ready` = 1: while a command is in progress the core completes it and the move stays (R31,
R179); before the first Reset it is no move (R177, U8). -/
def whenReady (s : State) (go : Host.Outcome State Fault Refusal) : Host.Outcome State Fault Refusal :=
  match s.phase with
  | .idle => go
  | .busy i _ => finish i s
  | .unreset => .refused .beforeReset

/-- A command word accepted with `ready` = 1 and completed, as one transition; `op` = `00` is not a command and changes
nothing but that a `done` pulse is over (R28, R66). -/
def runCommandWord (op : BitVec 2) (din : BitVec 128) (s : State) : Host.Outcome State Fault Refusal :=
  match decode (commandWord op din) with
  | .command i => exec i s
  | .noCommand => .next s.quietEdge

/-- The host makes no further move: a command in progress still completes (R183), else the core stays idle (R168). -/
def silentHost (s : State) : Host.Outcome State Fault Refusal :=
  match s.phase with
  | .idle => .next s.quietEdge
  | .busy i _ => finish i s
  | .unreset => .next s

/-- One move of the host, `rest` being the moves after it. -/
def makeMove (m : HostMove) (rest : List HostMove) (s : State) : Host.Outcome State Fault Refusal :=
  match m with
  | .reset => .next (s.setHost rest).resetEvent
  | .power => .next (s.setHost rest).powerEvent
  | .command op din => whenReady s (runCommandWord op din (s.setHost rest))
  | .read usesDout => whenReady s (readPorts usesDout (s.setHost rest))
  | .edge pins => clockEdge pins (s.setHost rest)

/-- The next event of a run: the oldest move of the host, or none (R28, R186). -/
def nextEvent (s : State) : Host.Outcome State Fault Refusal :=
  match s.host with
  | [] => silentHost s
  | m :: rest => makeMove m rest s

/-- The move that offers a command: its `op` and its `din` on the port (R60, R62). -/
def HostMove.ofInstr (i : Instr) : HostMove := .command (commandOp (encode i)) (commandDin (encode i))

/-- The pseudo-command DECK: `KEYEXP key` then `DEC block` (R69, R143, conflict C1). -/
def deckMoves (block key : Block) : List HostMove := [HostMove.ofInstr (.keyexp key), HostMove.ofInstr (.dec block)]

/-- The command word of a move's port values put at the head of the host's moves, on a core that is ready for it. -/
def offerWord (cw : CommandWord) (s : State) : State :=
  (s.setPhase .idle).setHost (.command (commandOp cw) (commandDin cw) :: s.host)

end Sys2Proof.Machine
end

