-- ==== Sys2Proof/Machine/Step.lean ====
section
/-! DEFINITION. One step of a run: its next event (10_state.md R28). -/

namespace Sys2Proof.Machine

/-- One step: the next event of the run (R28). -/
def step (s : State) : Host.Outcome State Fault Refusal := nextEvent s

/-- The state with a command word as the very next thing the host offers to a ready core. The core fetches nothing
(R24), so this stands for the host's offer (log entry 1). -/
def State.withFetchWord (s : State) (nbits w : Nat) : State := offerWord (tableWord nbits w) s

end Sys2Proof.Machine
end

