-- ==== Sys2Proof/Machine/Text.lean ====
section
/-! DEFINITION. The textual syntax of command sequences (30_encoding.md R68, R69, D24), as lists of characters. -/

namespace Sys2Proof.Machine

/-- The hexadecimal digits, each at its value. -/
def hexDigits : List Char := ['0', '1', '2', '3', '4', '5', '6', '7', '8', '9', 'a', 'b', 'c', 'd', 'e', 'f']

/-- The digits again with capital letters. -/
def hexCapitals : List Char := ['0', '1', '2', '3', '4', '5', '6', '7', '8', '9', 'A', 'B', 'C', 'D', 'E', 'F']

/-- The value of a hexadecimal digit, in either case of letters (log entry 9). -/
def hexValue (c : Char) : Option (BitVec 4) :=
  match hexDigits.idxOf? c, hexCapitals.idxOf? c with
  | some n, _ => some (BitVec.ofNat 4 n)
  | none, some n => some (BitVec.ofNat 4 n)
  | none, none => none

/-- The digit of a value. -/
def hexDigit (n : BitVec 4) : Char := hexDigits[n.toNat]'(by have := n.isLt; simpa [hexDigits] using this)

/-- Pairs of digits as bytes, the high digit first (R14, R15). -/
def parseBytes : List Char → Option (List Byte)
  | [] => some []
  | [_] => none
  | h :: l :: rest =>
    match hexValue h, hexValue l, parseBytes rest with
    | some x, some y, some bytes => some ((x ++ y) :: bytes)
    | _, _, _ => none

/-- An operand: 32 digits, byte 0 first (R68). -/
def parseBlock (text : List Char) : Option Block :=
  match parseBytes text with
  | some bytes => Block.ofList bytes
  | none => none

/-- The two digits of a byte. -/
def printByte (b : Byte) : List Char := [hexDigit (b.extractLsb' 4 4), hexDigit (b.extractLsb' 0 4)]

/-- The 32 digits of an operand, byte 0 first (R68). -/
def printBlock (x : Block) : List Char := x.toList.flatMap printByte

/-- What stands before the comment of a line, without blanks at its ends (R68, log entry 9). -/
def lineBody (line : List Char) : List Char :=
  (((line.takeWhile (· != '#')).dropWhile (· == ' ')).reverse.dropWhile (· == ' ')).reverse

/-- The mnemonic of a line's body and what follows it after the blanks (R68, log entry 9). -/
def splitBody (body : List Char) : List Char × List Char :=
  (body.takeWhile (· != ' '), (body.dropWhile (· != ' ')).dropWhile (· == ' '))

/-- The operands of DECK: a block, a comma, a key (R69). -/
def parseDeck (operands : List Char) : Option (List HostMove) :=
  match parseBlock (operands.takeWhile (· != ',')),
    parseBlock (((operands.dropWhile (· != ',')).drop 1).dropWhile (· == ' ')) with
  | some block, some key => some (deckMoves block key)
  | _, _ => none

/-- The move of a command with one operand. -/
def parseOperand (command : Block → Instr) (operand : List Char) : Option (List HostMove) :=
  match parseBlock operand with
  | some x => some [HostMove.ofInstr (command x)]
  | none => none

/-- The moves a line of text stands for; a line that is none of the forms of R68 and R69 is rejected (`none`). -/
def parseLine (line : List Char) : Option (List HostMove) :=
  let body := lineBody line
  let (mnemonic, operands) := splitBody body
  if body = [] then some []
  else if body = ['R', 'E', 'S', 'E', 'T'] then some [.reset]
  else if body = ['R', 'E', 'A', 'D'] then some [.read true]
  else if mnemonic = ['K', 'E', 'Y', 'E', 'X', 'P'] then parseOperand .keyexp operands
  else if mnemonic = ['E', 'N', 'C'] then parseOperand .enc operands
  else if mnemonic = ['D', 'E', 'C'] then parseOperand .dec operands
  else if mnemonic = ['D', 'E', 'C', 'K'] then parseDeck operands
  else none

/-- The moves of a sequence of lines (R68). -/
def parseLines : List (List Char) → Option (List HostMove)
  | [] => some []
  | line :: rest =>
    match parseLine line, parseLines rest with
    | some moves, some more => some (moves ++ more)
    | _, _ => none

/-- The mnemonic of a command as text (R68). -/
def printMnemonic : Instr → List Char
  | .keyexp _ => ['K', 'E', 'Y', 'E', 'X', 'P']
  | .enc _ => ['E', 'N', 'C']
  | .dec _ => ['D', 'E', 'C']

/-- A command as one line of text: the mnemonic, one space, the operand (R68). -/
def printInstr (i : Instr) : List Char := printMnemonic i ++ ' ' :: printBlock i.operand

/-- DECK as one line of text (R69). -/
def printDeck (block key : Block) : List Char :=
  ['D', 'E', 'C', 'K', ' '] ++ printBlock block ++ [',', ' '] ++ printBlock key

end Sys2Proof.Machine
end

