-- ==== Sys2Proof/Safety.lean ====
section
/-! DEFINITION. What claims are stated in: the invariant of the machine, which command the next event completes, what
makes a run stop, and the duties of the host (10_state.md R22, R26; 60_exceptions.md R157, R158; 70_reset_and_hazards.md
R177, R186). -/

namespace Sys2Proof.Machine

/-- What holds between the items of state from the first Reset on. -/
structure LiveInv (s : State) : Prop where
  /-- With `SV` = 1 the schedule is the expansion of its own round key 0 (R22). -/
  schedule : s.sv = true → s.rk = keyExpansion s.rk[0]
  /-- A result in `BLK` means that a schedule is present: both go at Reset only (R23, R175). -/
  result : s.blk.isSome = true → s.sv = true
  /-- A command in progress has from 1 to LAT edges left, had its schedule at acceptance, and `done` is 0 (R28, R160). -/
  inProgress : ∀ i left, s.phase = .busy i left →
    1 ≤ left ∧ left ≤ latency i ∧ (needsSchedule i = true → s.sv = true) ∧ s.done = false

/-- The invariant of the machine. Between power-up and Reset nothing is specified (R177), so nothing is claimed. -/
def Inv (s : State) : Prop := s.phase ≠ .unreset → LiveInv s

/-- The pins of a rising edge assert `rst`, or the move is Reset: the next event is a Reset (R160, R175). -/
def HostMove.resets : HostMove → Bool
  | .reset => true
  | .edge p => p.rst
  | _ => false

/-- The next event is a Reset (R175). -/
def resetsNext (s : State) : Bool :=
  match s.host with
  | [] => false
  | m :: _ => m.resets

/-- The next event is a loss of power (R168). -/
def losesPowerNext (s : State) : Bool :=
  match s.host with
  | [] => false
  | m :: _ => m == .power

/-- The command that a command word stands for. -/
def commandOf (op : BitVec 2) (din : BitVec 128) : Option Instr :=
  match decode (commandWord op din) with
  | .command i => some i
  | .noCommand => none

/-- The command that the next event completes, if it completes one: an offer to an idle core (R28), or the command in
progress when its last edge comes, when the host waits for `ready` (R31, R179), or when it does nothing (R183). -/
def completesNext (s : State) : Option Instr :=
  match s.phase, s.host with
  | .idle, .command op din :: _ => commandOf op din
  | .busy i _, [] => some i
  | .busy i _, .command _ _ :: _ => some i
  | .busy i _, .read _ :: _ => some i
  | .busy i left, .edge p :: _ => if !p.rst && decide (left ≤ 1) then some i else none
  | _, _ => none

/-- Why a run stops. -/
inductive Stop where
  | fault (r : Fault)
  | refused (r : Refusal)
  deriving DecidableEq, Repr

/-- A transform is offered although no schedule is present (R158). -/
def offersWithoutSchedule (s : State) (op : BitVec 2) (din : BitVec 128) : Bool :=
  match commandOf op din with
  | some i => needsSchedule i && !s.sv
  | none => false

/-- The stop that the host's next move brings about by breaking a duty of R177 and R186, `none` when it keeps them:
`NoSchedule` (R158), `ReadUnwritten` (R26, R157), and before the first Reset the refusal of U8 (log entry 6). -/
def brokenDuty (s : State) : Option Stop :=
  match s.phase, s.host with
  | .idle, .command op din :: _ => if offersWithoutSchedule s op din then some (.fault .noSchedule) else none
  | .idle, .edge p :: _ =>
    if !p.rst && p.start && offersWithoutSchedule s p.op p.din then some (.fault .noSchedule) else none
  | .idle, .read usesDout :: _ => if usesDout && s.blk.isNone then some (.fault .readUnwritten) else none
  | .unreset, .command _ _ :: _ => some (.refused .beforeReset)
  | .unreset, .read _ :: _ => some (.refused .beforeReset)
  | .unreset, .edge p :: _ => if p.rst then none else some (.refused .beforeReset)
  | _, _ => none

/-- A list of moves that keeps the duties of R177, checked from the moves alone: `live` says that a Reset has been
applied since power-up, `sv` that a schedule is present, `written` that a transform has completed since Reset. At the
level of transactions: an edge of the clock is allowed if it resets or offers nothing. -/
def keepsDuties (live sv written : Bool) : List HostMove → Bool
  | [] => true
  | .reset :: rest => keepsDuties true false false rest
  | .power :: rest => keepsDuties false false false rest
  | .command op _ :: rest =>
    live &&
      (if op = 0b00#2 then keepsDuties live sv written rest
       else if op = 0b01#2 then keepsDuties live true written rest
       else sv && keepsDuties live sv true rest)
  | .read usesDout :: rest => live && (!usesDout || written) && keepsDuties live sv written rest
  | .edge p :: rest =>
    if p.rst then keepsDuties true false false rest else live && !p.start && keepsDuties live sv written rest

/-- Between two transactions, with a host whose further moves keep its duties (R177, R186). -/
def Disciplined (s : State) : Bool :=
  match s.phase with
  | .idle => keepsDuties true s.sv s.blk.isSome s.host
  | .busy _ _ => false
  | .unreset => keepsDuties false false false s.host

/-- Two outcomes that agree in everything but the schedule store. -/
def SameButRk : Host.Outcome State Fault Refusal → Host.Outcome State Fault Refusal → Prop
  | .next t, .next u => u = t.setRk u.rk
  | .fault f, .fault g => f = g
  | .refused f, .refused g => f = g
  | _, _ => False

/-- `n` events of a run; a stop ends it (R161). -/
def runSteps : Nat → State → Host.Outcome State Fault Refusal
  | 0, s => .next s
  | n + 1, s =>
    match step s with
    | .next t => runSteps n t
    | .fault r => .fault r
    | .refused r => .refused r

/-- Edges at which the host does not assert `rst`. -/
def edgesWithoutReset (pins : List Pins) : List HostMove := pins.map fun p => .edge { p with rst := false }

end Sys2Proof.Machine
end

