-- ==== Sys2Proof/Certificates/Slice0/Obligations.lean ====
section
/-! DEFINITION. The statements for the provers, each with the rule of the spec it formalises. -/

open Sys2Proof Sys2Proof.Machine

/-! ### Encoding and operands -/

/-- R16, R44: byte 0 of a key or block is the most significant byte of the port, on `din` and on `dout`, and `pack`
is the inverse of `bytes`. -/
def Obligations.PortBytesMostSignificantFirst : Prop :=
  (∀ (v : BitVec 128) (i : Fin 16), (bytesOfPort v).byte i = v.extractLsb' (120 - 8 * i.val) 8) ∧
  (∀ (s : State) (b : Block), s.phase = .idle → s.blk = some b →
    ∃ o d, s.outputs = some o ∧ o.dout = some d ∧ ∀ i : Fin 16, b.byte i = d.extractLsb' (120 - 8 * i.val) 8) ∧
  (∀ v : BitVec 128, packPort (bytesOfPort v) = v) ∧
  (∀ x : Block, bytesOfPort (packPort x) = x)

/-- R45: byte `r + 4*c` of a block is cell `[r][c]` of the State Matrix, byte `i` is cell `[i mod 4][i div 4]`, and
column `c` is the four bytes from `4*c` on. -/
def Obligations.BlockIsColumnMajor : Prop :=
  (∀ (b : Block) (r c : Fin 4), b.cell r c = b.byte ⟨r.val + 4 * c.val, by omega⟩) ∧
  (∀ (b : Block) (i : Fin 16), b.cell ⟨i.val % 4, by omega⟩ ⟨i.val / 4, by omega⟩ = b.byte i) ∧
  (∀ (b : Block) (c j : Fin 4), (b.word c).byte j = b.byte ⟨4 * c.val + j.val, by omega⟩)

/-- R62, tier 3 (a): decoding the encoding of a command gives it back with its operand, whatever the operand. -/
def Obligations.DecodeOfEncodeIsTheCommand : Prop :=
  ∀ i : Instr, i.wellFormed = true ∧ decode (encode i) = .command i

/-- R62: the three codes with their operands, as codes and as match and mask; the decoder is total, and a bijection
between the words whose code is not `00` and the commands with their operands. -/
def Obligations.DecoderIsBijectionByCode : Prop :=
  (∀ cw : CommandWord,
    (commandOp cw = 0b01#2 → decode cw = .command (.keyexp (bytesOfPort (commandDin cw)))) ∧
    (commandOp cw = 0b10#2 → decode cw = .command (.enc (bytesOfPort (commandDin cw)))) ∧
    (commandOp cw = 0b11#2 → decode cw = .command (.dec (bytesOfPort (commandDin cw)))) ∧
    (commandOp cw = 0b00#2 ↔ decode cw = .noCommand)) ∧
  (∀ cw : CommandWord, ∀ row ∈ opcodeTable,
    (cw &&& row.mask = row.pattern ↔ decode cw = .command (row.command (bytesOfPort (commandDin cw))))) ∧
  (∀ i : Instr, ∃ cw : CommandWord, commandOp cw ≠ 0b00#2 ∧ decode cw = .command i) ∧
  (∀ (cw cw' : CommandWord) (i : Instr), decode cw = .command i → decode cw' = .command i → cw = cw')

/-- R66: `op` = `00` is the only code that is no command; it accepts nothing, whatever `din`: `RK`, `SV`, `BLK`, `ready` keep their values, `done` is not
pulsed, and the edge is the same as one with `start` = 0. -/
def Obligations.EmptyCodeChangesNothing : Prop :=
  (∀ (op : BitVec 2) (din : BitVec 128), decode (commandWord op din) = .noCommand ↔ op = 0b00#2) ∧
  (∀ (s : State) (din : BitVec 128) (rest : List HostMove), s.phase = .idle → s.host = .command 0b00#2 din :: rest →
    ∃ t, step s = .next t ∧ t.rk = s.rk ∧ t.sv = s.sv ∧ t.blk = s.blk ∧ t.ready = s.ready ∧ t.done = false) ∧
  (∀ (s : State) (din : BitVec 128), s.phase = .idle →
    ∃ t, clockEdge ⟨false, true, 0b00#2, din⟩ s = .next t ∧ t.rk = s.rk ∧ t.sv = s.sv ∧ t.blk = s.blk ∧
      t.ready = s.ready ∧ t.done = false ∧ clockEdge ⟨false, false, 0b00#2, din⟩ s = .next t)

/-- Sanity, from the words of 95_test_vectors.md section 2.7. -/
def Obligations.SampleWordsDecode : Prop :=
  decode 0x12b7e151628aed2a6abf7158809cf4f3c#130 =
    .command (.keyexp ⟨⟨0x2b#8, 0x7e#8, 0x15#8, 0x16#8⟩, ⟨0x28#8, 0xae#8, 0xd2#8, 0xa6#8⟩,
      ⟨0xab#8, 0xf7#8, 0x15#8, 0x88#8⟩, ⟨0x09#8, 0xcf#8, 0x4f#8, 0x3c#8⟩⟩) ∧
  decode 0x26bc1bee22e409f96e93d7e117393172a#130 =
    .command (.enc ⟨⟨0x6b#8, 0xc1#8, 0xbe#8, 0xe2#8⟩, ⟨0x2e#8, 0x40#8, 0x9f#8, 0x96#8⟩,
      ⟨0xe9#8, 0x3d#8, 0x7e#8, 0x11#8⟩, ⟨0x73#8, 0x93#8, 0x17#8, 0x2a#8⟩⟩) ∧
  decode 0x33ad77bb40d7a3660a89ecaf32466ef97#130 =
    .command (.dec ⟨⟨0x3a#8, 0xd7#8, 0x7b#8, 0xb4#8⟩, ⟨0x0d#8, 0x7a#8, 0x36#8, 0x60#8⟩,
      ⟨0xa8#8, 0x9e#8, 0xca#8, 0xf3#8⟩, ⟨0x24#8, 0x66#8, 0xef#8, 0x97#8⟩⟩) ∧
  decode 0x0ffffffffffffffffffffffffffffffff#130 = .noCommand

/-- R41, R46, R48: the views of the schedule store by 1, 4 and 16 bytes agree, and a read beyond 176 bytes is not
defined. -/
def Obligations.ScheduleViewsAgree : Prop :=
  (∀ (rk : Schedule) (r : Fin 11) (i : Fin 16), scheduleByte rk ⟨16 * r.val + i.val, by omega⟩ = rk[r].byte i) ∧
  (∀ (rk : Schedule) (r : Fin 11) (i : Fin 16), memRead rk (16 * r.val + i.val) 1 = some [rk[r].byte i]) ∧
  (∀ (rk : Schedule) (r : Fin 11) (j : Fin 4), memRead rk (16 * r.val + 4 * j.val) 4 = some (rk[r].word j).toList) ∧
  (∀ (rk : Schedule) (r : Fin 11), memRead rk (16 * r.val) 16 = some rk[r].toList) ∧
  (∀ (rk : Schedule) (a n : Nat), memRead rk a n = none ↔ 176 < a + n)

/-- R18, R41: a write of the schedule store is read back, leaves every other byte alone, is defined up to 176 only,
and the write of all 176 bytes is what KEYEXP does. -/
def Obligations.ScheduleWriteReadsBack : Prop :=
  (∀ (rk rk' : Schedule) (a : Nat) (v : List Byte), memWrite rk a v = some rk' →
    memRead rk' a v.length = some v ∧
    ∀ x : Fin 176, x.val < a ∨ a + v.length ≤ x.val → scheduleByte rk' x = scheduleByte rk x) ∧
  (∀ (rk : Schedule) (a : Nat) (v : List Byte), memWrite rk a v = none ↔ 176 < a + v.length) ∧
  (∀ (key : Block) (s t : State), exec (.keyexp key) s = .next t →
    memWrite s.rk 0 (scheduleBytes (keyExpansion key)) = some t.rk)

/-! ### Arithmetic and tables -/

/-- R82: doubling is shift and conditional reduction, with the rule's corner cases. -/
def Obligations.XtimeIsDoubling : Prop :=
  (∀ a : Byte, xtime a = (a <<< 1) ^^^ (if a.getLsbD 7 then 0x1B#8 else 0x00#8)) ∧
  (∀ a : Byte, xtime a = gmul a 0x02#8) ∧
  xtime 0x00#8 = 0x00#8 ∧ xtime 0x7F#8 = 0xFE#8 ∧ xtime 0x80#8 = 0x1B#8 ∧ xtime 0xFF#8 = 0xE5#8 ∧
  xtime 0x8D#8 = 0x01#8 ∧ xtime 0x57#8 = 0xAE#8 ∧ xtime 0xAE#8 = 0x47#8

/-- R83: the definition by shift and add, the field laws, the inverses, and the rule's corner cases. -/
def Obligations.GmulIsFieldMultiplication : Prop :=
  (∀ a b : Byte, gmul a b =
    (List.range 8).foldl (fun sum i => sum ^^^ (if b.getLsbD i then xtime^[i] a else 0x00#8)) 0x00#8) ∧
  (∀ a b : Byte, gmul a b = gmul b a) ∧
  (∀ a b c : Byte, gmul (gmul a b) c = gmul a (gmul b c)) ∧
  (∀ a b c : Byte, gmul a (b ^^^ c) = gmul a b ^^^ gmul a c) ∧
  (∀ a : Byte, gmul a 0x01#8 = a) ∧
  (∀ a : Byte, gmul a 0x00#8 = 0x00#8) ∧
  (∀ a : Byte, a ≠ 0x00#8 → ∃ v, gmul a v = 0x01#8 ∧ ∀ w, gmul a w = 0x01#8 → w = v) ∧
  gmul 0x00#8 0xFF#8 = 0x00#8 ∧ gmul 0x01#8 0xAB#8 = 0xAB#8 ∧ gmul 0xFF#8 0xFF#8 = 0x13#8 ∧
  gmul 0x53#8 0xCA#8 = 0x01#8 ∧ gmul 0x57#8 0x83#8 = 0xC1#8 ∧ gmul 0x57#8 0x13#8 = 0xFE#8

/-- R84: the seven constant multipliers, with the rule's worked values. -/
def Obligations.ConstantMultipliers : Prop :=
  (∀ a : Byte,
    gmul 0x01#8 a = a ∧ gmul 0x02#8 a = xtime a ∧ gmul 0x03#8 a = xtime a ^^^ a ∧
    gmul 0x09#8 a = xtime (xtime (xtime a)) ^^^ a ∧
    gmul 0x0B#8 a = xtime (xtime (xtime a)) ^^^ xtime a ^^^ a ∧
    gmul 0x0D#8 a = xtime (xtime (xtime a)) ^^^ xtime (xtime a) ^^^ a ∧
    gmul 0x0E#8 a = xtime (xtime (xtime a)) ^^^ xtime (xtime a) ^^^ xtime a) ∧
  [0x02#8, 0x03#8, 0x09#8, 0x0B#8, 0x0D#8, 0x0E#8].map (gmul · 0x57#8) =
    [0xAE#8, 0xF9#8, 0xD9#8, 0x77#8, 0x9E#8, 0x67#8] ∧
  [0x02#8, 0x03#8, 0x09#8, 0x0B#8, 0x0D#8, 0x0E#8].map (gmul · 0xFF#8) =
    [0xE5#8, 0x1A#8, 0x46#8, 0xA3#8, 0x97#8, 0x8D#8]

/-- R88: the S-box round trip over all 256 byte values, both ways. -/
def Obligations.SboxRoundTrip : Prop :=
  ∀ b : Byte, invSbox (sbox b) = b ∧ sbox (invSbox b) = b

/-- R85, R87: both tables are permutations without fixed points, and no entry of `SBOX` is the complement of its
index. -/
def Obligations.SboxHasNoFixedPoint : Prop :=
  (∀ b : Byte, sbox b ≠ b ∧ sbox b ≠ ~~~b ∧ invSbox b ≠ b) ∧
  Function.Bijective sbox ∧ Function.Bijective invSbox

/-- R86: the entry of a byte is the affine map of its inverse in the field, 0 standing for its own inverse. -/
def Obligations.SboxConstruction : Prop :=
  ∀ a v : Byte, (if a = 0x00#8 then v = 0x00#8 else gmul a v = 0x01#8) →
    sbox a = v ^^^ v.rotateLeft 1 ^^^ v.rotateLeft 2 ^^^ v.rotateLeft 3 ^^^ v.rotateLeft 4 ^^^ 0x63#8

/-- R89: the round constants start at 0x01, double each round, and are RSPEC's list. -/
def Obligations.RoundConstantsDouble : Prop :=
  rcon 0 = 0x01#8 ∧ (∀ r : Fin 9, rcon r.succ = xtime (rcon r.castSucc)) ∧
  [rcon 0, rcon 1, rcon 2, rcon 3, rcon 4, rcon 5, rcon 6, rcon 7, rcon 8, rcon 9] =
    [0x01#8, 0x02#8, 0x04#8, 0x08#8, 0x10#8, 0x20#8, 0x40#8, 0x80#8, 0x1B#8, 0x36#8]

/-- R92: the two column-mix matrices are inverse to each other. -/
def Obligations.MixMatricesAreInverse : Prop :=
  ∀ r c : Fin 4,
    gmul (invMixMatrix.entry r 0) (mixMatrix.entry 0 c) ^^^ gmul (invMixMatrix.entry r 1) (mixMatrix.entry 1 c) ^^^
      gmul (invMixMatrix.entry r 2) (mixMatrix.entry 2 c) ^^^ gmul (invMixMatrix.entry r 3) (mixMatrix.entry 3 c) =
        (if r = c then 0x01#8 else 0x00#8) ∧
    gmul (mixMatrix.entry r 0) (invMixMatrix.entry 0 c) ^^^ gmul (mixMatrix.entry r 1) (invMixMatrix.entry 1 c) ^^^
      gmul (mixMatrix.entry r 2) (invMixMatrix.entry 2 c) ^^^ gmul (mixMatrix.entry r 3) (invMixMatrix.entry 3 c) =
        (if r = c then 0x01#8 else 0x00#8)

/-! ### Round functions -/

/-- R117: AddRoundKey byte by byte and cell by cell, its own inverse, and the rule's corner cases. -/
def Obligations.AddRoundKeyIsItsOwnInverse : Prop :=
  (∀ (x k : Block) (i : Fin 16), (addRoundKey x k).byte i = x.byte i ^^^ k.byte i) ∧
  (∀ (x k : Block) (r c : Fin 4), (addRoundKey x k).cell r c = x.cell r c ^^^ k.byte ⟨r.val + 4 * c.val, by omega⟩) ∧
  (∀ x k : Block, addRoundKey (addRoundKey x k) k = x) ∧
  (∀ x : Block, addRoundKey x (bytesOfPort 0#128) = x ∧ addRoundKey x x = bytesOfPort 0#128) ∧
  addRoundKey (bytesOfPort 0x6bc1bee22e409f96e93d7e117393172a#128) (bytesOfPort 0x2b7e151628aed2a6abf7158809cf4f3c#128) =
    bytesOfPort 0x40bfabf406ee4d3042ca6b997a5c5816#128

/-- R118, R137: both substitutions act on each byte alone, and undo each other. -/
def Obligations.SubBytesActsBytewise : Prop :=
  (∀ (x : Block) (i : Fin 16), (subBytes x).byte i = sbox (x.byte i)) ∧
  (∀ (x : Block) (i : Fin 16), (invSubBytes x).byte i = invSbox (x.byte i)) ∧
  (∀ x : Block, invSubBytes (subBytes x) = x ∧ subBytes (invSubBytes x) = x) ∧
  subBytes (bytesOfPort 0#128) = bytesOfPort 0x63636363636363636363636363636363#128 ∧
  invSubBytes (bytesOfPort 0#128) = bytesOfPort 0x52525252525252525252525252525252#128 ∧
  invSubBytes (bytesOfPort 0x63636363636363636363636363636363#128) = bytesOfPort 0#128 ∧
  subBytes (bytesOfPort 0x40bfabf406ee4d3042ca6b997a5c5816#128) = bytesOfPort 0x090862bf6f28e3042c747feeda4a6a47#128 ∧
  invSubBytes (bytesOfPort 0x090862bf6f28e3042c747feeda4a6a47#128) = bytesOfPort 0x40bfabf406ee4d3042ca6b997a5c5816#128

/-- R119, R136: row `r` moves `r` columns to the left, or to the right; the two undo each other. The sum and the
difference of column numbers are taken modulo 4. -/
def Obligations.ShiftRowsRotatesRows : Prop :=
  (∀ (x : Block) (r c : Fin 4), (shiftRows x).cell r c = x.cell r (c + r)) ∧
  (∀ (x : Block) (r c : Fin 4), (invShiftRows x).cell r c = x.cell r (c - r)) ∧
  (∀ x : Block, invShiftRows (shiftRows x) = x ∧ shiftRows (invShiftRows x) = x) ∧
  (∀ w : Word, shiftRows ⟨w, w, w, w⟩ = ⟨w, w, w, w⟩) ∧
  shiftRows (bytesOfPort 0x000102030405060708090a0b0c0d0e0f#128) = bytesOfPort 0x00050a0f04090e03080d02070c01060b#128 ∧
  invShiftRows (bytesOfPort 0x000102030405060708090a0b0c0d0e0f#128) = bytesOfPort 0x000d0a0704010e0b0805020f0c090603#128 ∧
  invShiftRows (bytesOfPort 0x00050a0f04090e03080d02070c01060b#128) = bytesOfPort 0x000102030405060708090a0b0c0d0e0f#128

/-- R120: each cell of MixColumns is the row of `MIX` times the column, and the written-out form with doublings. -/
def Obligations.MixColumnsMultipliesColumns : Prop :=
  (∀ (x : Block) (r c : Fin 4), (mixColumns x).cell r c =
    gmul (mixMatrix.entry r 0) (x.cell 0 c) ^^^ gmul (mixMatrix.entry r 1) (x.cell 1 c) ^^^
      gmul (mixMatrix.entry r 2) (x.cell 2 c) ^^^ gmul (mixMatrix.entry r 3) (x.cell 3 c)) ∧
  (∀ (x : Block) (c : Fin 4), (mixColumns x).word c =
    ⟨xtime (x.cell 0 c) ^^^ (xtime (x.cell 1 c) ^^^ x.cell 1 c) ^^^ x.cell 2 c ^^^ x.cell 3 c,
     x.cell 0 c ^^^ xtime (x.cell 1 c) ^^^ (xtime (x.cell 2 c) ^^^ x.cell 2 c) ^^^ x.cell 3 c,
     x.cell 0 c ^^^ x.cell 1 c ^^^ xtime (x.cell 2 c) ^^^ (xtime (x.cell 3 c) ^^^ x.cell 3 c),
     (xtime (x.cell 0 c) ^^^ x.cell 0 c) ^^^ x.cell 1 c ^^^ x.cell 2 c ^^^ xtime (x.cell 3 c)⟩) ∧
  (∀ a : Byte, mixColumns ⟨⟨a, a, a, a⟩, ⟨a, a, a, a⟩, ⟨a, a, a, a⟩, ⟨a, a, a, a⟩⟩ =
    ⟨⟨a, a, a, a⟩, ⟨a, a, a, a⟩, ⟨a, a, a, a⟩, ⟨a, a, a, a⟩⟩) ∧
  matrixTimesColumn mixMatrix ⟨0x01#8, 0x00#8, 0x00#8, 0x00#8⟩ = ⟨0x02#8, 0x01#8, 0x01#8, 0x03#8⟩ ∧
  matrixTimesColumn mixMatrix ⟨0xdb#8, 0x13#8, 0x53#8, 0x45#8⟩ = ⟨0x8e#8, 0x4d#8, 0xa1#8, 0xbc#8⟩ ∧
  matrixTimesColumn mixMatrix ⟨0xd4#8, 0xd4#8, 0xd4#8, 0xd5#8⟩ = ⟨0xd5#8, 0xd5#8, 0xd7#8, 0xd6#8⟩

/-- R138: each cell of InvMixColumns is the row of `INVMIX` times the column, and the two mixings undo each other. -/
def Obligations.InvMixColumnsUndoesMixColumns : Prop :=
  (∀ (x : Block) (r c : Fin 4), (invMixColumns x).cell r c =
    gmul (invMixMatrix.entry r 0) (x.cell 0 c) ^^^ gmul (invMixMatrix.entry r 1) (x.cell 1 c) ^^^
      gmul (invMixMatrix.entry r 2) (x.cell 2 c) ^^^ gmul (invMixMatrix.entry r 3) (x.cell 3 c)) ∧
  (∀ x : Block, invMixColumns (mixColumns x) = x ∧ mixColumns (invMixColumns x) = x) ∧
  (∀ a : Byte, matrixTimesColumn invMixMatrix ⟨a, a, a, a⟩ = ⟨a, a, a, a⟩) ∧
  matrixTimesColumn invMixMatrix ⟨0x01#8, 0x00#8, 0x00#8, 0x00#8⟩ = ⟨0x0e#8, 0x09#8, 0x0d#8, 0x0b#8⟩ ∧
  matrixTimesColumn invMixMatrix ⟨0x8e#8, 0x4d#8, 0xa1#8, 0xbc#8⟩ = ⟨0xdb#8, 0x13#8, 0x53#8, 0x45#8⟩ ∧
  matrixTimesColumn invMixMatrix ⟨0xd5#8, 0xd5#8, 0xd7#8, 0xd6#8⟩ = ⟨0xd4#8, 0xd4#8, 0xd4#8, 0xd5#8⟩

/-- R121, R122, R123: the forward transform is the initial key mixing, nine full rounds and a tenth without
MixColumns, with the round keys 0 to 10 in rising order. -/
def Obligations.CipherRunsTenRounds : Prop :=
  ∀ (b : Block) (rk : Schedule), ∃ x : Fin 11 → Block,
    x 0 = addRoundKey b rk[0] ∧
    (∀ r : Fin 9, x ⟨r.val + 1, by omega⟩ =
      addRoundKey (mixColumns (shiftRows (subBytes (x ⟨r.val, by omega⟩)))) (rk[r.val + 1]'(by omega))) ∧
    x 10 = addRoundKey (shiftRows (subBytes (x 9))) rk[10] ∧
    cipher b rk = x 10

/-- R140, R141: the inverse transform adds round key 10, runs rounds 9 down to 1 with AddRoundKey before
InvMixColumns, and ends with round key 0 and no InvMixColumns. `y r` is the state before round key `r` is used. -/
def Obligations.InvCipherRunsTenRounds : Prop :=
  ∀ (b : Block) (rk : Schedule), ∃ y : Fin 11 → Block,
    y 9 = addRoundKey b rk[10] ∧
    (∀ r : Fin 9, y ⟨r.val, by omega⟩ =
      invMixColumns (addRoundKey (invSubBytes (invShiftRows (y ⟨r.val + 1, by omega⟩))) (rk[r.val + 1]'(by omega)))) ∧
    invCipher b rk = addRoundKey (invSubBytes (invShiftRows (y 0))) rk[0]

/-- R121, R144: SubBytes and ShiftRows commute, InvShiftRows and InvSubBytes commute, AddRoundKey and InvMixColumns,
and AddRoundKey and MixColumns, do not. -/
def Obligations.WhichRoundFunctionsCommute : Prop :=
  (∀ x : Block, subBytes (shiftRows x) = shiftRows (subBytes x)) ∧
  (∀ x : Block, invSubBytes (invShiftRows x) = invShiftRows (invSubBytes x)) ∧
  (∃ x k : Block, invMixColumns (addRoundKey x k) ≠ addRoundKey (invMixColumns x) k) ∧
  (∃ x k : Block, mixColumns (addRoundKey x k) ≠ addRoundKey (mixColumns x) k)

/-- R126: for every schedule, expanded from a key or not, the inverse transform undoes the forward one, and the
forward transform undoes the inverse one. -/
def Obligations.TransformsAreMutuallyInverse : Prop :=
  (∀ (rk : Schedule) (b : Block), invCipher (cipher b rk) rk = b) ∧
  (∀ (rk : Schedule) (b : Block), cipher (invCipher b rk) rk = b) ∧
  (∀ rk : Schedule, Function.Bijective fun b => cipher b rk)

/-! ### Key expansion -/

/-- R102, R103, R104, R105: the transformed last word, byte by byte; rotation and substitution commute. -/
def Obligations.TransformedLastWord : Prop :=
  (∀ w : Word, subWord (rotWord w) = rotWord (subWord w)) ∧
  ∀ (p : Block) (r : Fin 10),
    (transformedWord p r).byte 0 = sbox (p.byte 13) ^^^ rcon r ∧
    (transformedWord p r).byte 1 = sbox (p.byte 14) ∧
    (transformedWord p r).byte 2 = sbox (p.byte 15) ∧
    (transformedWord p r).byte 3 = sbox (p.byte 12) ∧
    transformedWord p r = (subWord (rotWord (p.word 3))).xor ⟨rcon r, 0x00#8, 0x00#8, 0x00#8⟩

/-- R106, R107: the four new words of a round key, each byte from the word before it, and the unrolled form. -/
def Obligations.NewRoundKeyWords : Prop :=
  ∀ (p : Block) (r : Fin 10),
    (∀ i : Fin 4, (nextRoundKey p r).byte ⟨i.val, by omega⟩ =
      p.byte ⟨i.val, by omega⟩ ^^^ (transformedWord p r).byte i) ∧
    (∀ (j : Fin 3) (i : Fin 4), (nextRoundKey p r).byte ⟨4 * (j.val + 1) + i.val, by omega⟩ =
      p.byte ⟨4 * (j.val + 1) + i.val, by omega⟩ ^^^ (nextRoundKey p r).byte ⟨4 * j.val + i.val, by omega⟩) ∧
    (∀ i : Fin 4, ((nextRoundKey p r).word 1).byte i =
      (p.word 1).byte i ^^^ (p.word 0).byte i ^^^ (transformedWord p r).byte i) ∧
    (∀ i : Fin 4, ((nextRoundKey p r).word 2).byte i =
      (p.word 2).byte i ^^^ (p.word 1).byte i ^^^ (p.word 0).byte i ^^^ (transformedWord p r).byte i) ∧
    (∀ i : Fin 4, ((nextRoundKey p r).word 3).byte i =
      (p.word 3).byte i ^^^ (p.word 2).byte i ^^^ (p.word 1).byte i ^^^ (p.word 0).byte i ^^^ (transformedWord p r).byte i)

/-- R101, R108, R109: the 176 bytes of a schedule by the loop of R108: the raw key first, then each round key from its
predecessor and the round constant. -/
def Obligations.KeyExpansionByteRecurrence : Prop :=
  ∀ key : Block,
    (∀ i : Fin 16, scheduleByte (keyExpansion key) ⟨i.val, by omega⟩ = key.byte i) ∧
    (keyExpansion key)[0] = key ∧
    (∀ r : Fin 10, (keyExpansion key)[r.val + 1]'(by omega) =
      nextRoundKey ((keyExpansion key)[r.val]'(by omega)) r) ∧
    (∀ (r : Fin 10) (j : Fin 3) (i : Fin 4),
      scheduleByte (keyExpansion key) ⟨16 * (r.val + 1) + 4 * (j.val + 1) + i.val, by omega⟩ =
        scheduleByte (keyExpansion key) ⟨16 * r.val + 4 * (j.val + 1) + i.val, by omega⟩ ^^^
          scheduleByte (keyExpansion key) ⟨16 * (r.val + 1) + 4 * j.val + i.val, by omega⟩)

/-! ### The commands -/

/-- R100: the word of `op` = `01` with a key is KEYEXP, and KEYEXP completes from every state, with no precondition: `RK` is the expansion of the key, `SV` is 1, and
nothing else changes but the `done` pulse (R28). -/
def Obligations.KeyexpCompletes : Prop :=
  ∀ (key : Block) (s : State), decode (commandWord 0b01#2 (packPort key)) = .command (.keyexp key) ∧
    ∃ t, exec (.keyexp key) s = .next t ∧
    t.rk = keyExpansion key ∧ t.sv = true ∧ t.blk = s.blk ∧ t.done = true ∧
    t.phase = s.phase ∧ t.host = s.host ∧ t.reads = s.reads ∧ t.draws = s.draws

/-- R115: the word of `op` = `10` with a block is ENC; ENC completes from every state with `SV` = 1, with
`Cipher(B, RK)` in `BLK`, `RK` and `SV` kept; with `SV` = 0 it is the fault `NoSchedule`. -/
def Obligations.EncCompletes : Prop :=
  ∀ (block : Block) (s : State), decode (commandWord 0b10#2 (packPort block)) = .command (.enc block) ∧
    (s.sv = true → ∃ t, exec (.enc block) s = .next t ∧
      t.blk = some (cipher block s.rk) ∧ t.rk = s.rk ∧ t.sv = s.sv ∧ t.done = true ∧
      t.phase = s.phase ∧ t.host = s.host ∧ t.reads = s.reads ∧ t.draws = s.draws) ∧
    (s.sv = false → exec (.enc block) s = .fault .noSchedule)

/-- R135: the word of `op` = `11` with a block is DEC; DEC completes from every state with `SV` = 1, with
`InvCipher(B, RK)` in `BLK`, `RK` and `SV` kept; with `SV` = 0 it is the fault `NoSchedule`. -/
def Obligations.DecCompletes : Prop :=
  ∀ (block : Block) (s : State), decode (commandWord 0b11#2 (packPort block)) = .command (.dec block) ∧
    (s.sv = true → ∃ t, exec (.dec block) s = .next t ∧
      t.blk = some (invCipher block s.rk) ∧ t.rk = s.rk ∧ t.sv = s.sv ∧ t.done = true ∧
      t.phase = s.phase ∧ t.host = s.host ∧ t.reads = s.reads ∧ t.draws = s.draws) ∧
    (s.sv = false → exec (.dec block) s = .fault .noSchedule)

/-- R158: an ENC or a DEC accepted while `SV` = 0 is the fault `NoSchedule`, as a transaction and at the accepting
edge, and there is no successor state; it is the only fault of a command, and no command is refused. -/
def Obligations.TransformWithoutScheduleFaults : Prop :=
  (∀ (i : Instr) (s : State) (f : Fault), exec i s = .fault f →
    f = .noSchedule ∧ needsSchedule i = true ∧ s.sv = false) ∧
  (∀ (i : Instr) (s : State) (r : Refusal), exec i s ≠ .refused r) ∧
  (∀ (block : Block) (s : State), s.sv = false →
    exec (.enc block) s = .fault .noSchedule ∧ exec (.dec block) s = .fault .noSchedule) ∧
  (∀ (s : State) (op : BitVec 2) (din : BitVec 128) (rest : List HostMove), s.phase = .idle → s.sv = false →
    (op = 0b10#2 ∨ op = 0b11#2) → s.host = .command op din :: rest → step s = .fault .noSchedule) ∧
  (∀ (s : State) (op : BitVec 2) (din : BitVec 128) (rest : List HostMove), s.phase = .idle → s.sv = false →
    (op = 0b10#2 ∨ op = 0b11#2) → s.host = .edge ⟨false, true, op, din⟩ :: rest → step s = .fault .noSchedule)

/-- The frame of the commands: what KEYEXP, ENC and DEC leave unchanged. KEYEXP keeps `BLK`; ENC and DEC keep `SV`, the
round keys and every one of the 176 bytes of the schedule store; no command touches the handshake phase, the host's
moves and reads or the count of free values. -/
def Obligations.CommandFrame : Prop :=
  ∀ (i : Instr) (s t : State), exec i s = .next t →
    t.phase = s.phase ∧ t.host = s.host ∧ t.reads = s.reads ∧ t.draws = s.draws ∧
    (∀ key, i = .keyexp key → t.blk = s.blk) ∧
    (∀ block, i = .enc block ∨ i = .dec block →
      t.sv = s.sv ∧ t.rk = s.rk ∧ ∀ a : Fin 176, scheduleByte t.rk a = scheduleByte s.rk a)

/-- R32: the effect of each event on each item of state, row by row. -/
def Obligations.EffectOfEachEvent : Prop :=
  (∀ (s : State) (rest : List HostMove), s.host = .reset :: rest →
    ∃ t, step s = .next t ∧ t.sv = false ∧ t.blk = none) ∧
  (∀ (s : State) (rest : List HostMove) (k : BitVec 128), s.phase = .idle → s.host = .command 0b01#2 k :: rest →
    ∃ t, step s = .next t ∧ t.rk = keyExpansion (bytesOfPort k) ∧ t.sv = true ∧ t.blk = s.blk) ∧
  (∀ (s : State) (rest : List HostMove) (b : BitVec 128), s.phase = .idle → s.sv = true →
    s.host = .command 0b10#2 b :: rest →
    ∃ t, step s = .next t ∧ t.rk = s.rk ∧ t.sv = true ∧ t.blk = some (cipher (bytesOfPort b) s.rk)) ∧
  (∀ (s : State) (rest : List HostMove) (b : BitVec 128), s.phase = .idle → s.sv = true →
    s.host = .command 0b11#2 b :: rest →
    ∃ t, step s = .next t ∧ t.rk = s.rk ∧ t.sv = true ∧ t.blk = some (invCipher (bytesOfPort b) s.rk)) ∧
  (∀ (s : State) (rest : List HostMove) (op : BitVec 2) (b : BitVec 128), s.phase = .idle → s.sv = false →
    (op = 0b10#2 ∨ op = 0b11#2) → s.host = .command op b :: rest → step s = .fault .noSchedule) ∧
  (∀ (s : State) (rest : List HostMove) (d : BitVec 128), s.phase = .idle → s.host = .command 0b00#2 d :: rest →
    ∃ t, step s = .next t ∧ t.rk = s.rk ∧ t.sv = s.sv ∧ t.blk = s.blk) ∧
  (∀ (s : State) (rest : List HostMove) (usesDout : Bool), s.phase = .idle → (usesDout = true → s.blk ≠ none) →
    s.host = .read usesDout :: rest →
    ∃ t, step s = .next t ∧ t.rk = s.rk ∧ t.sv = s.sv ∧ t.blk = s.blk)

/-- R124, R146: the result of a transform depends on the operand and the schedule only: two states that agree in `RK`
answer the same `BLK`, whatever else they hold. -/
def Obligations.TransformsArePure : Prop :=
  ∀ (i : Instr) (s s' t t' : State), needsSchedule i = true → s.rk = s'.rk →
    exec i s = .next t → exec i s' = .next t' → t.blk = t'.blk ∧ t.rk = s.rk ∧ t'.rk = s'.rk

/-- R54, R125, R146, R185: any number of transforms in any mix under one schedule leave `RK` and `SV` as they were, and
the last one gives the same result as if it were alone. -/
def Obligations.AnyMixOfTransformsWithoutDrift : Prop :=
  ∀ (before : List Instr) (last : Instr) (s : State) (rest : List HostMove),
    s.phase = .idle → s.sv = true → (∀ i ∈ before, needsSchedule i = true) → needsSchedule last = true →
    s.host = (before.map HostMove.ofInstr ++ [HostMove.ofInstr last]) ++ rest →
    ∃ t, runSteps (before.length + 1) s = .next t ∧ t.rk = s.rk ∧ t.sv = true ∧ t.host = rest ∧ t.phase = .idle ∧
      (∀ block, last = .enc block → t.blk = some (cipher block s.rk)) ∧
      (∀ block, last = .dec block → t.blk = some (invCipher block s.rk))

/-- R110, R178: a KEYEXP overwrites the whole schedule, whatever was held; a KEYEXP with the key of the held schedule
writes the same 176 bytes; a transform after two KEYEXPs uses the later key. -/
def Obligations.LatestKeyWins : Prop :=
  (∀ (key : Block) (s s' t t' : State), exec (.keyexp key) s = .next t → exec (.keyexp key) s' = .next t' →
    t.rk = t'.rk) ∧
  (∀ (key : Block) (s t : State), s.sv = true → s.rk = keyExpansion key → exec (.keyexp key) s = .next t →
    t = { s with done := true }) ∧
  (∀ (keyA keyB block : Block) (s : State) (rest : List HostMove), s.phase = .idle →
    s.host = HostMove.ofInstr (.keyexp keyA) :: HostMove.ofInstr (.keyexp keyB) :: HostMove.ofInstr (.enc block) :: rest →
    ∃ t, runSteps 3 s = .next t ∧ t.blk = some (cipher block (keyExpansion keyB)) ∧ t.host = rest)

/-- R142: after `KEYEXP K; ENC B`, a DEC of the result leaves `BLK` = B, for every key, block and start state. -/
def Obligations.EncryptThenDecryptRestores : Prop :=
  ∀ (key block : Block) (s : State), ∃ t1 t2 t3 c,
    exec (.keyexp key) s = .next t1 ∧ exec (.enc block) t1 = .next t2 ∧ t2.blk = some c ∧
    exec (.dec c) t2 = .next t3 ∧ t3.blk = some block ∧
    invCipher (cipher block (keyExpansion key)) (keyExpansion key) = block ∧
    cipher (invCipher block (keyExpansion key)) (keyExpansion key) = block

/-- R69, R143: DECK replaces the held schedule by that of its key, sets `SV`, and decrypts its block under it,
whatever schedule was held before. -/
def Obligations.DeckDecryptsUnderItsKey : Prop :=
  ∀ (block key : Block) (s : State) (rest : List HostMove), s.phase = .idle → s.host = deckMoves block key ++ rest →
    ∃ t, runSteps 2 s = .next t ∧ t.rk = keyExpansion key ∧ t.sv = true ∧
      t.blk = some (invCipher block (keyExpansion key)) ∧ t.host = rest

/-- Sanity: the known-answer test of RSPEC section 8 (R128, R147), from every start state. -/
def Obligations.KnownAnswer : Prop :=
  ∀ s : State, ∃ t1 t2 t3,
    exec (.keyexp (bytesOfPort 0x2b7e151628aed2a6abf7158809cf4f3c#128)) s = .next t1 ∧
    t1.rk[10] = bytesOfPort 0xd014f9a8c9ee2589e13f0cc8b6630ca6#128 ∧
    exec (.enc (bytesOfPort 0x6bc1bee22e409f96e93d7e117393172a#128)) t1 = .next t2 ∧
    t2.blk = some (bytesOfPort 0x3ad77bb40d7a3660a89ecaf32466ef97#128) ∧
    exec (.dec (bytesOfPort 0x3ad77bb40d7a3660a89ecaf32466ef97#128)) t2 = .next t3 ∧
    t3.blk = some (bytesOfPort 0x6bc1bee22e409f96e93d7e117393172a#128)

/-! ### Reset, reads, the handshake -/

/-- R33: the values the spec gives for the state after Reset. Nothing is said of `RK`, whose value is unspecified and is
a free value of the model (log entry 2); `host` and `reads` empty are the model's choice (log entries 1 and 3). -/
def Obligations.ResetStateValues : Prop :=
  State.reset.sv = false ∧ State.reset.blk = none ∧
  State.reset.outputs = some ⟨true, false, none, some false⟩

/-- R160, R175, R176: a Reset, as an event or at an edge, in every phase and with any offer at the same edge: `SV` = 0,
`BLK` unwritten, `ready` = 1, `done` = 0, a command in progress abandoned; two Resets in a row equal one, but for the
unspecified `RK`, which is a free value of the model each time (log entry 2). -/
def Obligations.ResetWinsAtAnyTime : Prop :=
  (∀ (s : State) (m : HostMove) (rest : List HostMove), s.host = m :: rest → m.resets = true →
    ∃ t, step s = .next t ∧ t.sv = false ∧ t.blk = none ∧ t.phase = .idle ∧ t.ready = true ∧ t.done = false ∧
      t.host = rest ∧ t.reads = s.reads) ∧
  (∀ (s : State) (rest : List HostMove), s.host = .reset :: .reset :: rest →
    ∃ t u, step s = .next t ∧ step t = .next u ∧ u.sv = t.sv ∧ u.blk = t.blk ∧ u.phase = t.phase ∧ u.done = t.done)

/-- R23, R175: but for a loss of power, Reset is the only event that clears `SV` and the only one that makes `BLK`
unwritten again. -/
def Obligations.OnlyResetClears : Prop :=
  ∀ s t : State, step s = .next t → losesPowerNext s = false →
    (s.sv = true → t.sv = false → resetsNext s = true) ∧ (s.blk ≠ none → t.blk = none → resetsNext s = true)

/-- R20, R21, R28: but for Reset and a loss of power, an event that completes no command leaves `RK`, `SV` and `BLK`
alone, and one that completes a command gives them that command's transition. That a command word, a read or a silent
host completes a command in progress in one step is the model's choice (log entry 5). -/
def Obligations.OnlyCommandsWrite : Prop :=
  ∀ s t : State, step s = .next t → losesPowerNext s = false → resetsNext s = false →
    (completesNext s = none → t.rk = s.rk ∧ t.sv = s.sv ∧ t.blk = s.blk) ∧
    (∀ i, completesNext s = some i → ∃ u, exec i s = .next u ∧ t.rk = u.rk ∧ t.sv = u.sv ∧ t.blk = u.blk)

/-- A step runs the decoded command: with a ready core and a command word offered, the step is that command's meaning
on the state whose remaining moves are the moves after it; the word of an encoded command gives that command; and the
word placed by withFetchWord is the next thing that runs. -/
def Obligations.StepRunsOfferedCommand : Prop :=
  (∀ (s : State) (op : BitVec 2) (din : BitVec 128) (rest : List HostMove) (i : Instr), s.phase = .idle →
    s.host = .command op din :: rest → decode (commandWord op din) = .command i → step s = exec i (s.setHost rest)) ∧
  (∀ (s : State) (rest : List HostMove) (i : Instr), s.phase = .idle → s.host = HostMove.ofInstr i :: rest →
    step s = exec i (s.setHost rest)) ∧
  (∀ (s : State) (nbits w : Nat) (i : Instr), decodeTableWord nbits w = some i →
    step (s.withFetchWord nbits w) = exec i (s.setPhase .idle))

/-- R26, R28, R31, R54: a read with `ready` = 1 returns `SV`, and `BLK` where it uses `dout`; using `dout` before a
transform has completed is the fault `ReadUnwritten`, reading `sv` alone is not. The model's choices in it: a read
leaves `done` as it is, and a read that finds a command in progress lets it complete in one step, whatever edges it has
left, and is still to come (log entry 5); what reads returned is kept as a list (log entry 3). -/
def Obligations.ReadReturnsPorts : Prop :=
  (∀ (s : State) (rest : List HostMove) (b : Block), s.phase = .idle → s.blk = some b →
    s.host = .read true :: rest →
    step s = .next { s with host := rest, reads := s.reads ++ [⟨some (packPort b), s.sv⟩] }) ∧
  (∀ (s : State) (rest : List HostMove), s.phase = .idle → s.host = .read false :: rest →
    step s = .next { s with host := rest, reads := s.reads ++ [⟨none, s.sv⟩] }) ∧
  (∀ (s : State) (rest : List HostMove), s.phase = .idle → s.blk = none → s.host = .read true :: rest →
    step s = .fault .readUnwritten) ∧
  (∀ (s : State) (rest : List HostMove) (i : Instr) (left : Nat) (usesDout : Bool), s.phase = .busy i left →
    s.host = .read usesDout :: rest → step s = exec i (s.setPhase .idle))

/-- R10, R28, R29: an offer with `ready` = 1 is accepted at the edge: the command and its operand are latched, `ready`
is 0, the state is not yet written, and the command has its latency, a positive number, ahead. -/
def Obligations.EdgeAcceptsOffer : Prop :=
  ∀ (s : State) (p : Pins) (i : Instr), s.phase = .idle → p.rst = false → p.start = true →
    decode (commandWord p.op p.din) = .command i → (needsSchedule i = true → s.sv = true) →
    1 ≤ latency i ∧ ∃ t, clockEdge p s = .next t ∧ t.phase = .busy i (latency i) ∧ t.ready = false ∧ t.done = false ∧
      t.rk = s.rk ∧ t.sv = s.sv ∧ t.blk = s.blk ∧ t.host = s.host ∧ t.reads = s.reads ∧ t.draws = s.draws

/-- R28, R29, R179, R181: while a command is in progress, an edge without `rst` does the same whatever the pins: an
offer is not accepted and not queued, and a change of `din` or `op` does not affect the command. -/
def Obligations.BusyCoreIgnoresPins : Prop :=
  ∀ (s : State) (i : Instr) (left : Nat) (p q : Pins), s.phase = .busy i left → p.rst = false → q.rst = false →
    clockEdge p s = clockEdge q s ∧
    (1 < left → ∃ t, clockEdge p s = .next t ∧ t.phase = .busy i (left - 1) ∧ t.rk = s.rk ∧ t.sv = s.sv ∧ t.blk = s.blk)

/-- R28, R30: `done` is 1 for one cycle, the cycle in which `ready` is 1 again. -/
def Obligations.DoneIsOneCycle : Prop :=
  (∀ (s t : State) (p : Pins), s.phase = .idle → clockEdge p s = .next t → t.done = false) ∧
  (∀ (s t : State) (p : Pins) (i : Instr) (left : Nat), s.phase = .busy i left → p.rst = false →
    clockEdge p s = .next t → (t.done = true ↔ left ≤ 1) ∧ (t.ready = true ↔ left ≤ 1))

/-- R28: the handshake, edge by edge, implements the transaction: from a ready core, the accepting edge and `LAT_op`
further edges without `rst`, whatever else is on the pins, end as the one event of that command does, with the same
state and the same fault. -/
def Obligations.HandshakeImplementsTransaction : Prop :=
  ∀ (s : State) (p : Pins) (later : List Pins) (rest : List HostMove) (i : Instr),
    s.phase = .idle → p.rst = false → p.start = true → decode (commandWord p.op p.din) = .command i →
    later.length = latency i → s.host = .edge p :: (edgesWithoutReset later ++ rest) →
    runSteps (latency i + 1) s = step (s.setHost (.command p.op p.din :: rest))

/-- R10, R28, R183: every command in progress completes after exactly the edges it has left, if no Reset falls among
them, with that command's transition, `ready` = 1 and `done` = 1. -/
def Obligations.EveryCommandCompletes : Prop :=
  ∀ (s : State) (i : Instr) (left : Nat) (pins : List Pins) (rest : List HostMove),
    Inv s → s.phase = .busy i left → pins.length = left → s.host = edgesWithoutReset pins ++ rest →
    ∃ t, runSteps left s = .next t ∧ exec i ((s.setPhase .idle).setHost rest) = .next t ∧
      t.ready = true ∧ t.done = true ∧ t.host = rest

/-- R168, R177, U8: after power was removed nothing is specified, no port is, and every move but Reset or a further loss
of power is refused; a Reset brings the core to its reset values. The refusal is the model's form of U8 'refuse' (log
entry 6). -/
def Obligations.PowerUpNeedsReset : Prop :=
  ∀ (s : State) (rest : List HostMove), s.host = .power :: rest →
    ∃ t, step s = .next t ∧ t.host = rest ∧ t.outputs = none ∧
      (∀ m more, rest = m :: more → m.resets = false → m ≠ .power → step t = .refused .beforeReset) ∧
      (∀ m more, rest = m :: more → m.resets = true →
        ∃ u, step t = .next u ∧ u.outputs = some ⟨true, false, none, some false⟩)

/-! ### Whole-machine statements -/

/-- R22, R23, R28, tier 3 (b): every step keeps the invariant, in every state that has it. -/
def Obligations.StepKeepsInvariant : Prop :=
  ∀ s t : State, Inv s → step s = .next t → Inv t

/-- The state after Reset has the invariant, and it is not the empty claim there: the core is past its Reset. -/
def Obligations.ResetHasInvariant : Prop :=
  Inv State.reset ∧ State.reset.phase ≠ .unreset

/-- R13, R157: the two faults are the complete list of bad outcomes from the first Reset on: a step stops exactly where
the host's next move breaks a duty of R177 and R186, and everywhere else it answers a next state. Before the first Reset
R186 gives the host no move and U8 says 'refuse': the refusal there is the model's form of it (log entry 6), no outcome of
R13 or R157. That a command word or a read completes a command in progress in one step is log entry 5. -/
def Obligations.StopsExactlyOnBrokenDuty : Prop :=
  ∀ s : State, Inv s →
    (brokenDuty s = none → ∃ t, step s = .next t) ∧
    (∀ r, brokenDuty s = some (.fault r) → step s = .fault r) ∧
    (∀ r, brokenDuty s = some (.refused r) → step s = .refused r)

/-- R177, R186: a host that keeps its duties never sees a stop, however long it runs: the discipline is checked from
the list of its moves alone. The list itself is log entry 1, and the part of it before a Reset log entry 6. -/
def Obligations.DisciplinedHostNeverStops : Prop :=
  (∀ s : State, Disciplined s = true → ∃ t, step s = .next t ∧ Disciplined t = true) ∧
  (∀ (s : State) (n : Nat), Disciplined s = true → ∃ t, runSteps n s = .next t)

/-- R36, R53, R111: the schedule cannot be read out: two states that differ in `RK` only, whatever the bytes, go on the
same in everything but `RK` through every event that completes no ENC or DEC; and two KEYEXPs with different keys leave
the same outputs. -/
def Obligations.ScheduleIsHidden : Prop :=
  (∀ (s : State) (rk' : Schedule), (∀ i, completesNext s = some i → needsSchedule i = false) →
    SameButRk (step s) (step (s.setRk rk'))) ∧
  (∀ (key key' : Block) (s t t' : State), exec (.keyexp key) s = .next t → exec (.keyexp key') s = .next t' →
    t.outputs = t'.outputs)

/-- R68, R69: the text of a command, and of DECK, reads back as its moves; `RESET` and `READ` are the moves of R68; text
after `#` is a comment. -/
def Obligations.TextReadsBack : Prop :=
  (∀ i : Instr, parseLine (printInstr i) = some [HostMove.ofInstr i]) ∧
  (∀ block key : Block, parseLine (printDeck block key) = some (deckMoves block key)) ∧
  (∀ comment : List Char, parseLine ("RESET".toList ++ '#' :: comment) = some [.reset]) ∧
  (∀ comment : List Char, parseLine ("READ".toList ++ '#' :: comment) = some [.read true]) ∧
  (∀ comment : List Char, parseLine ('#' :: comment) = some [])
end

