-- ==== Sys2Proof/Laws/State.lean ====
section
/-! SUPPORT. One lemma per field per update of the state, each true by rfl, so that no proof unfolds a record update. -/

namespace Sys2Proof.Machine

@[simp] theorem State.setRk_rk (s : State) (v : Schedule) : (s.setRk v).rk = v := rfl
@[simp] theorem State.setRk_sv (s : State) (v : Schedule) : (s.setRk v).sv = s.sv := rfl
@[simp] theorem State.setRk_blk (s : State) (v : Schedule) : (s.setRk v).blk = s.blk := rfl
@[simp] theorem State.setRk_phase (s : State) (v : Schedule) : (s.setRk v).phase = s.phase := rfl
@[simp] theorem State.setRk_done (s : State) (v : Schedule) : (s.setRk v).done = s.done := rfl
@[simp] theorem State.setRk_host (s : State) (v : Schedule) : (s.setRk v).host = s.host := rfl
@[simp] theorem State.setRk_reads (s : State) (v : Schedule) : (s.setRk v).reads = s.reads := rfl
@[simp] theorem State.setRk_draws (s : State) (v : Schedule) : (s.setRk v).draws = s.draws := rfl

@[simp] theorem State.setSv_rk (s : State) (v : Bool) : (s.setSv v).rk = s.rk := rfl
@[simp] theorem State.setSv_sv (s : State) (v : Bool) : (s.setSv v).sv = v := rfl
@[simp] theorem State.setSv_blk (s : State) (v : Bool) : (s.setSv v).blk = s.blk := rfl
@[simp] theorem State.setSv_phase (s : State) (v : Bool) : (s.setSv v).phase = s.phase := rfl
@[simp] theorem State.setSv_done (s : State) (v : Bool) : (s.setSv v).done = s.done := rfl
@[simp] theorem State.setSv_host (s : State) (v : Bool) : (s.setSv v).host = s.host := rfl
@[simp] theorem State.setSv_reads (s : State) (v : Bool) : (s.setSv v).reads = s.reads := rfl
@[simp] theorem State.setSv_draws (s : State) (v : Bool) : (s.setSv v).draws = s.draws := rfl

@[simp] theorem State.setBlk_rk (s : State) (v : Option Block) : (s.setBlk v).rk = s.rk := rfl
@[simp] theorem State.setBlk_sv (s : State) (v : Option Block) : (s.setBlk v).sv = s.sv := rfl
@[simp] theorem State.setBlk_blk (s : State) (v : Option Block) : (s.setBlk v).blk = v := rfl
@[simp] theorem State.setBlk_phase (s : State) (v : Option Block) : (s.setBlk v).phase = s.phase := rfl
@[simp] theorem State.setBlk_done (s : State) (v : Option Block) : (s.setBlk v).done = s.done := rfl
@[simp] theorem State.setBlk_host (s : State) (v : Option Block) : (s.setBlk v).host = s.host := rfl
@[simp] theorem State.setBlk_reads (s : State) (v : Option Block) : (s.setBlk v).reads = s.reads := rfl
@[simp] theorem State.setBlk_draws (s : State) (v : Option Block) : (s.setBlk v).draws = s.draws := rfl

@[simp] theorem State.setPhase_rk (s : State) (v : Phase) : (s.setPhase v).rk = s.rk := rfl
@[simp] theorem State.setPhase_sv (s : State) (v : Phase) : (s.setPhase v).sv = s.sv := rfl
@[simp] theorem State.setPhase_blk (s : State) (v : Phase) : (s.setPhase v).blk = s.blk := rfl
@[simp] theorem State.setPhase_phase (s : State) (v : Phase) : (s.setPhase v).phase = v := rfl
@[simp] theorem State.setPhase_done (s : State) (v : Phase) : (s.setPhase v).done = s.done := rfl
@[simp] theorem State.setPhase_host (s : State) (v : Phase) : (s.setPhase v).host = s.host := rfl
@[simp] theorem State.setPhase_reads (s : State) (v : Phase) : (s.setPhase v).reads = s.reads := rfl
@[simp] theorem State.setPhase_draws (s : State) (v : Phase) : (s.setPhase v).draws = s.draws := rfl

@[simp] theorem State.setDone_rk (s : State) (v : Bool) : (s.setDone v).rk = s.rk := rfl
@[simp] theorem State.setDone_sv (s : State) (v : Bool) : (s.setDone v).sv = s.sv := rfl
@[simp] theorem State.setDone_blk (s : State) (v : Bool) : (s.setDone v).blk = s.blk := rfl
@[simp] theorem State.setDone_phase (s : State) (v : Bool) : (s.setDone v).phase = s.phase := rfl
@[simp] theorem State.setDone_done (s : State) (v : Bool) : (s.setDone v).done = v := rfl
@[simp] theorem State.setDone_host (s : State) (v : Bool) : (s.setDone v).host = s.host := rfl
@[simp] theorem State.setDone_reads (s : State) (v : Bool) : (s.setDone v).reads = s.reads := rfl
@[simp] theorem State.setDone_draws (s : State) (v : Bool) : (s.setDone v).draws = s.draws := rfl

@[simp] theorem State.setHost_rk (s : State) (v : List HostMove) : (s.setHost v).rk = s.rk := rfl
@[simp] theorem State.setHost_sv (s : State) (v : List HostMove) : (s.setHost v).sv = s.sv := rfl
@[simp] theorem State.setHost_blk (s : State) (v : List HostMove) : (s.setHost v).blk = s.blk := rfl
@[simp] theorem State.setHost_phase (s : State) (v : List HostMove) : (s.setHost v).phase = s.phase := rfl
@[simp] theorem State.setHost_done (s : State) (v : List HostMove) : (s.setHost v).done = s.done := rfl
@[simp] theorem State.setHost_host (s : State) (v : List HostMove) : (s.setHost v).host = v := rfl
@[simp] theorem State.setHost_reads (s : State) (v : List HostMove) : (s.setHost v).reads = s.reads := rfl
@[simp] theorem State.setHost_draws (s : State) (v : List HostMove) : (s.setHost v).draws = s.draws := rfl

@[simp] theorem State.addRead_rk (s : State) (v : Sample) : (s.addRead v).rk = s.rk := rfl
@[simp] theorem State.addRead_sv (s : State) (v : Sample) : (s.addRead v).sv = s.sv := rfl
@[simp] theorem State.addRead_blk (s : State) (v : Sample) : (s.addRead v).blk = s.blk := rfl
@[simp] theorem State.addRead_phase (s : State) (v : Sample) : (s.addRead v).phase = s.phase := rfl
@[simp] theorem State.addRead_done (s : State) (v : Sample) : (s.addRead v).done = s.done := rfl
@[simp] theorem State.addRead_host (s : State) (v : Sample) : (s.addRead v).host = s.host := rfl
@[simp] theorem State.addRead_reads (s : State) (v : Sample) : (s.addRead v).reads = s.reads ++ [v] := rfl
@[simp] theorem State.addRead_draws (s : State) (v : Sample) : (s.addRead v).draws = s.draws := rfl

@[simp] theorem State.countDraw_rk (s : State) : s.countDraw.rk = s.rk := rfl
@[simp] theorem State.countDraw_sv (s : State) : s.countDraw.sv = s.sv := rfl
@[simp] theorem State.countDraw_blk (s : State) : s.countDraw.blk = s.blk := rfl
@[simp] theorem State.countDraw_phase (s : State) : s.countDraw.phase = s.phase := rfl
@[simp] theorem State.countDraw_done (s : State) : s.countDraw.done = s.done := rfl
@[simp] theorem State.countDraw_host (s : State) : s.countDraw.host = s.host := rfl
@[simp] theorem State.countDraw_reads (s : State) : s.countDraw.reads = s.reads := rfl
@[simp] theorem State.countDraw_draws (s : State) : s.countDraw.draws = s.draws + 1 := rfl

@[simp] theorem State.resetEvent_rk (s : State) : s.resetEvent.rk = Config.freeSchedule s.draws := rfl
@[simp] theorem State.resetEvent_sv (s : State) : s.resetEvent.sv = false := rfl
@[simp] theorem State.resetEvent_blk (s : State) : s.resetEvent.blk = none := rfl
@[simp] theorem State.resetEvent_phase (s : State) : s.resetEvent.phase = .idle := rfl
@[simp] theorem State.resetEvent_done (s : State) : s.resetEvent.done = false := rfl
@[simp] theorem State.resetEvent_host (s : State) : s.resetEvent.host = s.host := rfl
@[simp] theorem State.resetEvent_reads (s : State) : s.resetEvent.reads = s.reads := rfl
@[simp] theorem State.resetEvent_draws (s : State) : s.resetEvent.draws = s.draws + 1 := rfl

@[simp] theorem State.powerEvent_rk (s : State) : s.powerEvent.rk = Config.freeSchedule s.draws := rfl
@[simp] theorem State.powerEvent_sv (s : State) : s.powerEvent.sv = Config.freeSv s.draws := rfl
@[simp] theorem State.powerEvent_blk (s : State) : s.powerEvent.blk = Config.freeBlk s.draws := rfl
@[simp] theorem State.powerEvent_phase (s : State) : s.powerEvent.phase = .unreset := rfl
@[simp] theorem State.powerEvent_done (s : State) : s.powerEvent.done = Config.freeDone s.draws := rfl
@[simp] theorem State.powerEvent_host (s : State) : s.powerEvent.host = s.host := rfl
@[simp] theorem State.powerEvent_reads (s : State) : s.powerEvent.reads = s.reads := rfl
@[simp] theorem State.powerEvent_draws (s : State) : s.powerEvent.draws = s.draws + 1 := rfl

@[simp] theorem State.pulseDone_eq (s : State) : s.pulseDone = s.setDone true := rfl
@[simp] theorem State.quietEdge_eq (s : State) : s.quietEdge = s.setDone false := rfl
@[simp] theorem State.installSchedule_eq (s : State) (v : Schedule) : s.installSchedule v = (s.setRk v).setSv true := rfl

/-- Two states are equal when all their fields are. -/
theorem State.eq_of_fields {s t : State} (h1 : s.rk = t.rk) (h2 : s.sv = t.sv) (h3 : s.blk = t.blk)
    (h4 : s.phase = t.phase) (h5 : s.done = t.done) (h6 : s.host = t.host) (h7 : s.reads = t.reads)
    (h8 : s.draws = t.draws) : s = t := by
  cases s; cases t; simp_all

/-- The core is ready exactly when it is idle (R28, R35). -/
theorem State.ready_iff (s : State) : s.ready = true ↔ s.phase = .idle := by
  simp [State.ready]

end Sys2Proof.Machine
end

