-- ==== Sys2Proof/Laws/Exec.lean ====
section
/-! SUPPORT. Everything a command, a read and a clock edge can do, said once: callers cite these and never unfold. -/

namespace Sys2Proof.Machine

/-- The three arms of exec. -/
@[simp] theorem exec_keyexp (key : Block) (s : State) : exec (.keyexp key) s = execKeyexp key s := rfl
@[simp] theorem exec_enc (block : Block) (s : State) : exec (.enc block) s = execEnc block s := rfl
@[simp] theorem exec_dec (block : Block) (s : State) : exec (.dec block) s = execDec block s := rfl

/-- A transform with a schedule goes on, without one it faults, and nothing else (R158). -/
@[simp] theorem withSchedule_present {s : State} (h : s.sv = true)
    (go : State → Host.Outcome State Fault Refusal) : withSchedule s go = go s := by
  simp [withSchedule, h]

@[simp] theorem withSchedule_absent {s : State} (h : s.sv = false)
    (go : State → Host.Outcome State Fault Refusal) : withSchedule s go = .fault .noSchedule := by
  simp [withSchedule, h]

/-- If a command answers a next state, it is KEYEXP with the new schedule, or a transform whose schedule was present
with its result in `BLK`; `done` pulses and nothing else changes. -/
theorem exec_next {i : Instr} {s t : State} (h : exec i s = .next t) :
    (∃ key, i = .keyexp key ∧ t = ((s.setRk (keyExpansion key)).setSv true).setDone true) ∨
    (∃ block, i = .enc block ∧ s.sv = true ∧ t = (s.setBlk (some (cipher block s.rk))).setDone true) ∨
    (∃ block, i = .dec block ∧ s.sv = true ∧ t = (s.setBlk (some (invCipher block s.rk))).setDone true) := by
  cases i with
  | keyexp key => exact .inl ⟨key, rfl, (by simpa [execKeyexp] using h.symm)⟩
  | enc block =>
    cases hs : s.sv with
    | false => simp [execEnc, hs] at h
    | true => exact .inr (.inl ⟨block, rfl, rfl, by simpa [execEnc, hs] using h.symm⟩)
  | dec block =>
    cases hs : s.sv with
    | false => simp [execDec, hs] at h
    | true => exact .inr (.inr ⟨block, rfl, rfl, by simpa [execDec, hs] using h.symm⟩)

/-- A command never stops but with the fault of a transform without a schedule (R155, R158). -/
theorem exec_stops (i : Instr) (s : State) :
    (∃ t, exec i s = .next t) ∨
      (needsSchedule i = true ∧ s.sv = false ∧ exec i s = .fault .noSchedule) := by
  cases i <;> cases h : s.sv <;> simp [execKeyexp, execEnc, execDec, needsSchedule, h]

/-- If a read answers a next state, it recorded one sample and nothing else changed (R32). -/
theorem readPorts_next {u : Bool} {s t : State} (h : readPorts u s = .next t) :
    (u = false ∧ t = s.addRead ⟨none, s.sv⟩) ∨
      (u = true ∧ ∃ b, s.blk = some b ∧ t = s.addRead ⟨some (packPort b), s.sv⟩) := by
  cases u with
  | false => exact .inl ⟨rfl, by simpa [readPorts] using h.symm⟩
  | true =>
    cases hb : s.blk with
    | none => simp [readPorts, hb] at h
    | some b => exact .inr ⟨rfl, b, rfl, by simpa [readPorts, hb] using h.symm⟩

/-- If an acceptance answers a next state, the command is in progress with its full latency (R28, R29). -/
theorem accept_next {i : Instr} {s t : State} (h : accept i s = .next t) :
    (needsSchedule i = true → s.sv = true) ∧ t = (s.setDone false).setPhase (.busy i (latency i)) := by
  unfold accept at h
  split at h
  · cases h
  · rename_i hn
    refine ⟨fun hi => ?_, by simpa using h.symm⟩
    cases hs : s.sv <;> simp_all

/-- The latencies are positive (R10). -/
theorem latency_pos (i : Instr) : 1 ≤ latency i := by
  cases i <;> simp [latency, Config.latKeyexp, Config.latEnc, Config.latDec]

/-- If an edge answers a next state, it reset the core, let a quiet cycle pass, accepted a command, counted down a
command in progress, or completed it (R28, R160, R176). -/
theorem clockEdge_next {p : Pins} {s t : State} (h : clockEdge p s = .next t) :
    (p.rst = true ∧ t = s.resetEvent) ∨
    (p.rst = false ∧ s.phase = .idle ∧ t = s.setDone false) ∨
    (p.rst = false ∧ s.phase = .idle ∧ ∃ i, p.start = true ∧ decode (commandWord p.op p.din) = .command i ∧
      accept i s = .next t) ∨
    (p.rst = false ∧ ∃ i left, s.phase = .busy i left ∧ 1 < left ∧
      t = (s.setDone false).setPhase (.busy i (left - 1))) ∨
    (p.rst = false ∧ ∃ i left, s.phase = .busy i left ∧ left ≤ 1 ∧ finish i s = .next t) := by
  unfold clockEdge at h
  split at h
  · rename_i hr; exact .inl ⟨hr, by simpa using h.symm⟩
  · rename_i hr
    have hr : p.rst = false := by simpa using hr
    unfold clockedPhase at h
    split at h
    · rename_i hp
      split at h
      · rename_i hs
        split at h
        · rename_i i hd
          exact .inr (.inr (.inl ⟨hr, hp, i, hs, hd, h⟩))
        · exact .inr (.inl ⟨hr, hp, by simpa using h.symm⟩)
      · exact .inr (.inl ⟨hr, hp, by simpa using h.symm⟩)
    · rename_i i left hp
      split at h
      · rename_i hl
        exact .inr (.inr (.inr (.inr ⟨hr, i, left, hp, hl, h⟩)))
      · rename_i hl
        exact .inr (.inr (.inr (.inl ⟨hr, i, left, hp, by omega, by simpa using h.symm⟩)))
    · cases h

/-- If a move that waits for `ready` answers a next state, the core was idle and the move acted, or the command in
progress completed (R31, R179). -/
theorem whenReady_next {s t : State} {go : Host.Outcome State Fault Refusal} (h : whenReady s go = .next t) :
    (s.phase = .idle ∧ go = .next t) ∨ ∃ i left, s.phase = .busy i left ∧ finish i s = .next t := by
  unfold whenReady at h
  split at h
  · rename_i hp; exact .inl ⟨hp, h⟩
  · rename_i i left hp; exact .inr ⟨i, left, hp, h⟩
  · cases h

/-- If a command word answers a next state, it was a command that did, or the empty code (R66). -/
theorem runCommandWord_next {op : BitVec 2} {din : BitVec 128} {s t : State} (h : runCommandWord op din s = .next t) :
    (∃ i, decode (commandWord op din) = .command i ∧ exec i s = .next t) ∨
      (decode (commandWord op din) = .noCommand ∧ t = s.setDone false) := by
  unfold runCommandWord at h
  split at h
  · rename_i i hd; exact .inl ⟨i, hd, h⟩
  · rename_i hd; exact .inr ⟨hd, by simpa using h.symm⟩

end Sys2Proof.Machine
end

