-- ==== Sys2Proof/Laws/Operands.lean ====
section
/-! SUPPORT. The small lemmas of byte sequences and ports. -/

namespace Sys2Proof

@[ext] theorem Word.ext_bytes {a b : Word} (h0 : a.b0 = b.b0) (h1 : a.b1 = b.b1) (h2 : a.b2 = b.b2)
    (h3 : a.b3 = b.b3) : a = b := by
  cases a; cases b; simp_all

@[ext] theorem Block.ext_words {x y : Block} (h0 : x.c0 = y.c0) (h1 : x.c1 = y.c1) (h2 : x.c2 = y.c2)
    (h3 : x.c3 = y.c3) : x = y := by
  cases x; cases y; simp_all

/-- Two words are equal when all their bytes are. -/
theorem Word.eq_of_byte {a b : Word} (h : ∀ j, a.byte j = b.byte j) : a = b :=
  Word.ext_bytes (h 0) (h 1) (h 2) (h 3)

/-- Two sequences of 16 bytes are equal when all their matrix cells are. -/
theorem Block.eq_of_cell {x y : Block} (h : ∀ r c, x.cell r c = y.cell r c) : x = y :=
  Block.ext_words (Word.eq_of_byte (h · 0)) (Word.eq_of_byte (h · 1)) (Word.eq_of_byte (h · 2)) (Word.eq_of_byte (h · 3))

@[simp] theorem Word.xor_self_right (a b : Word) : (a.xor b).xor b = a := by
  ext : 1 <;> simp [Word.xor]

@[simp] theorem Block.xor_self_right (x y : Block) : (x.xor y).xor y = x := by
  ext : 1 <;> simp [Block.xor]

@[simp] theorem Word.length_toList (w : Word) : w.toList.length = 4 := rfl

@[simp] theorem Block.length_toList (x : Block) : x.toList.length = 16 := rfl

@[simp] theorem Block.ofList_toList (x : Block) : Block.ofList x.toList = some x := rfl

@[simp] theorem scheduleBytes_length (rk : Schedule) : (scheduleBytes rk).length = 176 := by
  have : ∀ l : List Block, (l.flatMap Block.toList).length = 16 * l.length := by
    intro l
    induction l with
    | nil => rfl
    | cons x l ih => simp [ih]; omega
  simp [scheduleBytes, this]

/-- The byte of the schedule built from `f` at an address is `f` of it (R41). -/
theorem scheduleByte_ofFn (f : Fin 176 → Byte) (a : Fin 176) : scheduleByte (scheduleOfFn f) a = f a := by
  have key : ∀ (g : Fin 16 → Byte) (i : Fin 16), (Block.ofFn g).byte i = g i := by
    intro g i; fin_cases i <;> rfl
  simp only [scheduleByte, scheduleOfFn, Vector.getElem_ofFn, key]
  congr 1
  exact Fin.ext (by simp only; omega)

/-- The bits of four pieces of one width laid side by side, the last the least significant. -/
theorem append4_getLsbD {n : Nat} (a b c d : BitVec n) (q : Fin 4) (r : Nat) (h : r < n) :
    (a ++ b ++ c ++ d).getLsbD (n * q.val + r) =
      match q with
      | 0 => d.getLsbD r
      | 1 => c.getLsbD r
      | 2 => b.getLsbD r
      | 3 => a.getLsbD r := by
  simp only [BitVec.getLsbD_append]
  match q with
  | 0 => rw [if_pos (by simpa using h)]; simp
  | 1 => rw [if_neg (by simp), if_pos (by simp; omega)]; congr 1; simp
  | 2 =>
    rw [if_neg (by simp; omega), if_neg (by simp; omega), if_pos (by simp; omega)]; congr 1; simp; omega
  | 3 =>
    rw [if_neg (by simp; omega), if_neg (by simp; omega), if_neg (by simp; omega)]; congr 1; simp; omega

/-- Bit `r` of the `j`-th byte of a word on port bits, counted from the least significant end (R44). -/
theorem Word.toBits_getLsbD (w : Word) (j : Fin 4) (r : Nat) (h : r < 8) :
    w.toBits.getLsbD (8 * j.val + r) = (w.byte j.rev).getLsbD r := by
  refine (append4_getLsbD w.b0 w.b1 w.b2 w.b3 j r h).trans ?_
  fin_cases j <;> rfl

/-- Bit `r` of the `j`-th byte of the `c`-th word of `pack(X)`, counted from the least significant end (R44). -/
theorem packPort_getLsbD (x : Block) (c j : Fin 4) (r : Nat) (h : r < 8) :
    (packPort x).getLsbD (32 * c.val + (8 * j.val + r)) = ((x.word c.rev).byte j.rev).getLsbD r := by
  refine (append4_getLsbD x.c0.toBits x.c1.toBits x.c2.toBits x.c3.toBits c (8 * j.val + r) (by omega)).trans ?_
  rw [← Word.toBits_getLsbD _ j r h]
  fin_cases c <;> rfl
end Sys2Proof
end

