-- ==== Sys2Proof/Laws/Gf.lean ====
section
/-! SUPPORT. What each arithmetic function and each key-schedule function does, once. -/

namespace Sys2Proof

/-- Doubling distributes over addition (R81, R82). -/
theorem xtime_xor (a b : Byte) : xtime (a ^^^ b) = xtime a ^^^ xtime b := by
  have shift : ∀ c : Byte, xtime c = (c <<< 1) ^^^ (if c.getLsbD 7 then 0x1B#8 else 0#8) := by decide +kernel
  simp only [shift, BitVec.shiftLeft_xor_distrib, BitVec.getLsbD_xor]
  cases a.getLsbD 7 <;> cases b.getLsbD 7 <;> simp [BitVec.xor_assoc]
  all_goals first | done | ac_rfl

/-- Iterated doubling distributes over addition (R83). -/
theorem xtimes_xor (n : Nat) (a b : Byte) : xtimes n (a ^^^ b) = xtimes n a ^^^ xtimes n b := by
  induction n with
  | zero => rfl
  | succ n ih => simp [xtimes, ih, xtime_xor]

/-- Round key `r` of an expansion (R108). -/
@[simp] theorem keyExpansion_getElem (key : Block) (r : Nat) (h : r < 11) :
    (keyExpansion key)[r] = expandedKey key ⟨r, h⟩ := by
  simp [keyExpansion]

@[simp] theorem expandedKey_zero (key : Block) : expandedKey key 0 = key := rfl

theorem expandedKey_succ (key : Block) (r : Fin 10) :
    expandedKey key r.succ = nextRoundKey (expandedKey key r.castSucc) r := by
  simp [expandedKey]

end Sys2Proof
end

