-- ==== Sys2Proof/Laws/PerInstr.lean ====
section
/-! SUPPORT. What holds of every command as a piece of syntax, one lemma per constructor: it is well formed, its code is
never the empty one, and its operand stands on the port bits as R60 and R63 say. -/

namespace Sys2Proof.Laws.Encoding

/-- A command is well formed, and its command word carries its code at 129:128 and is not the empty code (R60, R62). -/
def Statement (i : Instr) : Prop :=
  i.wellFormed = true ∧ commandOp (encode i) = i.opcode ∧ codeWellFormed (commandOp (encode i)) = true ∧
    commandDin (encode i) = packPort i.operand

/-- The two fields of a word made from them (R60). -/
theorem fields_commandWord (op : BitVec 2) (din : BitVec 128) :
    commandOp (commandWord op din) = op ∧ commandDin (commandWord op din) = din := by
  have bit : ∀ i, (commandWord op din).getLsbD i = if i < 128 then din.getLsbD i else op.getLsbD (i - 128) :=
    fun i => BitVec.getLsbD_append
  refine ⟨BitVec.eq_of_getLsbD_eq fun i hi => ?_, BitVec.eq_of_getLsbD_eq fun i hi => ?_⟩
  · simp [commandOp, bit, hi]
  · simp [commandDin, bit, hi]

theorem keyexp (key : Block) : Statement (.keyexp key) := by
  have h := fields_commandWord 0b01#2 (packPort key)
  exact ⟨rfl, h.1, by rw [encode, Instr.opcode, Instr.operand, h.1]; rfl, h.2⟩

theorem enc (block : Block) : Statement (.enc block) := by
  have h := fields_commandWord 0b10#2 (packPort block)
  exact ⟨rfl, h.1, by rw [encode, Instr.opcode, Instr.operand, h.1]; rfl, h.2⟩

theorem dec (block : Block) : Statement (.dec block) := by
  have h := fields_commandWord 0b11#2 (packPort block)
  exact ⟨rfl, h.1, by rw [encode, Instr.opcode, Instr.operand, h.1]; rfl, h.2⟩

end Sys2Proof.Laws.Encoding
end

