-- ==== Sys2Proof/Laws/Step.lean ====
section
/-! SUPPORT. What a step can do, by the host's next move. -/

namespace Sys2Proof.Machine

@[simp] theorem step_silent {s : State} (h : s.host = []) : step s = silentHost s := by
  simp [step, nextEvent, h]

theorem step_move {s : State} {m : HostMove} {rest : List HostMove} (h : s.host = m :: rest) :
    step s = makeMove m rest s := by
  simp [step, nextEvent, h]

/-- If a step with no move of the host answers a next state, the core stayed as it was but for the end of a `done`
pulse, or completed the command in progress (R183). -/
theorem silentHost_next {s t : State} (h : silentHost s = .next t) :
    (s.phase = .idle ∧ t = s.setDone false) ∨ (s.phase = .unreset ∧ t = s) ∨
      ∃ i left, s.phase = .busy i left ∧ finish i s = .next t := by
  unfold silentHost at h
  split at h
  · rename_i hp; exact .inl ⟨hp, by simpa using h.symm⟩
  · rename_i i left hp; exact .inr (.inr ⟨i, left, hp, h⟩)
  · rename_i hp; exact .inr (.inl ⟨hp, by simpa using h.symm⟩)

/-- If a step answers a next state, the host was silent, or made one of its five moves (R28, R186). -/
theorem step_next {s t : State} (h : step s = .next t) :
    (s.host = [] ∧ silentHost s = .next t) ∨
    (∃ rest, s.host = .reset :: rest ∧ t = (s.setHost rest).resetEvent) ∨
    (∃ rest, s.host = .power :: rest ∧ t = (s.setHost rest).powerEvent) ∨
    (∃ op din rest, s.host = .command op din :: rest ∧
      whenReady s (runCommandWord op din (s.setHost rest)) = .next t) ∨
    (∃ u rest, s.host = .read u :: rest ∧ whenReady s (readPorts u (s.setHost rest)) = .next t) ∨
    (∃ p rest, s.host = .edge p :: rest ∧ clockEdge p (s.setHost rest) = .next t) := by
  cases hh : s.host with
  | nil => exact .inl ⟨rfl, by rwa [step_silent hh] at h⟩
  | cons m rest =>
    rw [step_move hh] at h
    cases m with
    | reset => exact .inr (.inl ⟨rest, rfl, by simpa [makeMove] using h.symm⟩)
    | power => exact .inr (.inr (.inl ⟨rest, rfl, by simpa [makeMove] using h.symm⟩))
    | command op din => exact .inr (.inr (.inr (.inl ⟨op, din, rest, rfl, h⟩)))
    | read u => exact .inr (.inr (.inr (.inr (.inl ⟨u, rest, rfl, h⟩))))
    | edge p => exact .inr (.inr (.inr (.inr (.inr ⟨p, rest, rfl, h⟩))))

end Sys2Proof.Machine
end

