-- ==== Sys2Proof/Tests/Slice0.lean ====
section
/-! SUPPORT. The model's own tests: well-formedness, decoding, one step of each command against the values of
95_test_vectors.md, and for every obligation with hypotheses a witness that meets them. -/

namespace Sys2Proof.Tests

open Sys2Proof.Machine

/-! ### States and values -/

/-- The key of 95_test_vectors.md section 1.1. -/
def katKey : Block := bytesOfPort 0x2b7e151628aed2a6abf7158809cf4f3c#128

/-- Its plaintext and its ciphertext. -/
def katPlain : Block := bytesOfPort 0x6bc1bee22e409f96e93d7e117393172a#128
def katCipher : Block := bytesOfPort 0x3ad77bb40d7a3660a89ecaf32466ef97#128

def zero : Block := bytesOfPort 0#128

/-- A core after its Reset, with a schedule of zero bytes standing in for the unspecified one. -/
def blank : State := ⟨Vector.replicate 11 zero, false, none, .idle, false, [], [], 1⟩

/-- A core that holds the schedule of `katKey` and a result. -/
def keyed : State := ⟨keyExpansion katKey, true, some katCipher, .idle, false, [], [], 1⟩

/-- A core with a command in progress that has `left` edges to go. -/
def busyWith (i : Instr) (left : Nat) : State := ⟨keyExpansion katKey, true, none, .busy i left, false, [], [], 1⟩

/-- A core between power-up and its first Reset. -/
def dark : State := ⟨Vector.replicate 11 zero, true, some zero, .unreset, true, [], [], 1⟩

def quietPins : Pins := ⟨false, false, 0#2, 0#128⟩
def resetPins : Pins := ⟨true, true, 0b11#2, 0#128⟩

/-- What a step shows, for a test to look at. -/
def blkOf : Host.Outcome State Fault Refusal → Option (BitVec 128)
  | .next t => t.blk.map packPort
  | .fault _ => none
  | .refused _ => none

def keyOf (r : Fin 11) : Host.Outcome State Fault Refusal → Option (BitVec 128)
  | .next t => some (packPort t.rk[r])
  | .fault _ => none
  | .refused _ => none

/-! ### Well-formedness: an ill-formed term for each check (R49, U2, R66) -/

theorem test_operand_of_15_bytes : operandWellFormed (List.replicate 15 0#8) = false := by decide
theorem test_operand_of_17_bytes : operandWellFormed (List.replicate 17 0#8) = false := by decide
theorem test_operand_of_16_bytes : operandWellFormed katKey.toList = true := by decide
theorem test_no_block_of_15_bytes : Block.ofList (List.replicate 15 0#8) = none := by decide
theorem test_empty_code : codeWellFormed 0b00#2 = false ∧ codeWellFormed 0b01#2 = true := by decide
theorem test_wellFormed : (Instr.enc katPlain).wellFormed = true := by decide

/-! ### Decoding: the words of 95_test_vectors.md section 2.7, and one word laid out field by field (R60, R63) -/

theorem test_decode_keyexp : decode 0x12b7e151628aed2a6abf7158809cf4f3c#130 = .command (.keyexp katKey) := by decide
theorem test_decode_keyexp_zero : decode 0x100000000000000000000000000000000#130 = .command (.keyexp zero) := by decide
theorem test_decode_enc : decode 0x26bc1bee22e409f96e93d7e117393172a#130 = .command (.enc katPlain) := by decide
theorem test_decode_dec : decode 0x33ad77bb40d7a3660a89ecaf32466ef97#130 = .command (.dec katCipher) := by decide
theorem test_decode_none : decode 0x0ffffffffffffffffffffffffffffffff#130 = .noCommand := by decide

/-- The bit of weight 2^129 is `op[1]`, that of weight 2^127 is bit 7 of byte 0, that of weight 1 is bit 0 of byte 15. -/
theorem test_decode_bits : decode (BitVec.ofNat 130 (2 ^ 129 + 2 ^ 127 + 1)) =
    .command (.enc ⟨⟨0x80#8, 0#8, 0#8, 0#8⟩, ⟨0#8, 0#8, 0#8, 0#8⟩, ⟨0#8, 0#8, 0#8, 0#8⟩, ⟨0#8, 0#8, 0#8, 0x01#8⟩⟩) := by
  decide

theorem test_encode : encode (.dec katCipher) = 0x33ad77bb40d7a3660a89ecaf32466ef97#130 := by decide

theorem test_table_word : decodeTableWord 136 0x26bc1bee22e409f96e93d7e117393172a = some (.enc katPlain) ∧
    decodeTableWord 136 0x0ffffffffffffffffffffffffffffffff = none := by decide

/-! ### Arithmetic and round functions (95_test_vectors.md sections 2.1, 2.3, 2.6) -/

theorem test_sub_bytes : packPort (subBytes (bytesOfPort 0xf0f1f2f3f4f5f6f7f8f9fafbfcfdfeff#128)) =
    0x8ca1890dbfe6426841992d0fb054bb16#128 := by decide +kernel

theorem test_mix_columns : packPort (mixColumns (bytesOfPort 0x00112233445566778899aabbccddeeff#128)) =
    0x2277005566334411aaff88ddeebbcc99#128 := by decide +kernel

theorem test_inv_mix_columns : packPort (invMixColumns (bytesOfPort 0x00112233445566778899aabbccddeeff#128)) =
    0xaaff88ddeebbcc992277005566334411#128 := by decide +kernel

theorem test_forward_round : packPort (forwardRound (bytesOfPort 0x40bfabf406ee4d3042ca6b997a5c5816#128)
    (bytesOfPort 0xa0fafe1788542cb123a339392a6c7605#128)) = 0xf265e8d51fd2397bc3b9976d9076505c#128 := by decide +kernel

theorem test_inverse_round : packPort (inverseRound (bytesOfPort 0xeac3821cc49413e949a1c63b9205e331#128)
    (bytesOfPort 0xac7766f319fadc2128d12941575c006e#128)) = 0x8333f0afff15a6edc191b409770e815e#128 := by decide +kernel

theorem test_next_round_key : packPort (nextRoundKey (bytesOfPort 0xead27321b58dbad2312bf5607f8d292f#128) 8) =
    0xac7766f319fadc2128d12941575c006e#128 := by decide +kernel

/-! ### One step of each command (95_test_vectors.md sections 2.1, 2.5, programs P4, P5, P6) -/

theorem test_keyexp_kat : keyOf 10 (exec (.keyexp katKey) blank) = some 0xd014f9a8c9ee2589e13f0cc8b6630ca6#128 := by
  decide +kernel

/-- P4: a KEYEXP leaves `BLK` alone. -/
theorem test_keyexp_keeps_blk : blkOf (exec (.keyexp zero) keyed) = some 0x3ad77bb40d7a3660a89ecaf32466ef97#128 := by
  decide +kernel

theorem test_enc_kat : blkOf (exec (.enc katPlain) keyed) = some 0x3ad77bb40d7a3660a89ecaf32466ef97#128 := by
  decide +kernel

theorem test_enc_second_block : blkOf (exec (.enc (bytesOfPort 0xae2d8a571e03ac9c9eb76fac45af8e51#128)) keyed) =
    some 0xf5d3d58503b9699de785895a96fdbaaf#128 := by decide +kernel

theorem test_dec_kat : blkOf (exec (.dec katCipher) keyed) = some 0x6bc1bee22e409f96e93d7e117393172a#128 := by
  decide +kernel

theorem test_dec_of_plain : blkOf (exec (.dec katPlain) keyed) = some 0x500594e20d6d6c8c716b667c38f085f1#128 := by
  decide +kernel

/-- P5: a transform with `SV` = 0, and a use of `dout` before any transform. -/
theorem test_no_schedule : step (blank.setHost [HostMove.ofInstr (.enc katPlain)]) = .fault .noSchedule := rfl
theorem test_read_unwritten : step (blank.setHost [.read true]) = .fault .readUnwritten := rfl

/-- P6: the empty code changes nothing. -/
theorem test_empty_code_step : step (keyed.setHost [.command 0b00#2 (BitVec.allOnes 128)]) = .next keyed :=
  rfl

/-- R176: a Reset cuts a command short; the schedule flag is cleared. -/
theorem test_reset_cuts_short :
    ∃ t, step ((busyWith (.enc katPlain) 1).setHost [.edge resetPins]) = .next t ∧ t.phase = .idle ∧ t.sv = false ∧
      t.blk = none ∧ t.done = false := ⟨_, rfl, rfl, rfl, rfl, rfl⟩

/-- withFetchWord: the word is the next thing that runs. -/
theorem test_offer : keyOf 0 (step (State.reset.withFetchWord 130 0x12b7e151628aed2a6abf7158809cf4f3c)) =
    some 0x2b7e151628aed2a6abf7158809cf4f3c#128 := by decide +kernel

/-- R68, with the spacing and the comment of program P1. -/
theorem test_text : parseLine "ENC    6bc1bee22e409f96e93d7e117393172a      # BLK = 3ad7".toList =
    some [HostMove.ofInstr (.enc katPlain)] := by decide +kernel

theorem test_text_deck : parseLine "DECK   3ad77bb40d7a3660a89ecaf32466ef97, 2b7e151628aed2a6abf7158809cf4f3c".toList =
    some (deckMoves katCipher katKey) := by decide +kernel

/-! ### Witnesses: for every obligation with hypotheses, values that meet them, clause by clause -/

theorem witness_port_bytes : keyed.phase = .idle ∧ keyed.blk = some katCipher := by decide

/-- The four codes, each at an operand at the end of its range, and each row of the table. -/
theorem witness_decoder : commandOp 0x1ffffffffffffffffffffffffffffffff#130 = 0b01#2 ∧
    commandOp 0x200000000000000000000000000000000#130 = 0b10#2 ∧
    commandOp 0x3ffffffffffffffffffffffffffffffff#130 = 0b11#2 ∧ commandOp 0#130 = 0b00#2 ∧
    (∀ row ∈ opcodeTable, row.pattern &&& row.mask = row.pattern) ∧ opcodeTable.length = 3 ∧
    decode 0x200000000000000000000000000000000#130 = .command (.enc zero) := by decide

theorem witness_empty_code : (keyed.setHost [.command 0b00#2 0#128]).phase = .idle ∧
    (keyed.setHost [.command 0b00#2 0#128]).host = .command 0b00#2 0#128 :: [] := by decide

/-- A write at the top end of the schedule store, with addresses below it; at the bottom end, with addresses above. -/
theorem witness_schedule_write :
    (∃ rk', memWrite blank.rk 172 [1#8, 2#8, 3#8, 4#8] = some rk') ∧ (171 : Fin 176).val < 172 ∧
    (∃ rk', memWrite blank.rk 0 [1#8] = some rk') ∧ 0 + [1#8].length ≤ (175 : Fin 176).val ∧
    (∃ t, exec (.keyexp katKey) blank = .next t) :=
  ⟨⟨_, rfl⟩, by decide, ⟨_, rfl⟩, by decide, ⟨_, rfl⟩⟩

theorem witness_gmul : (0xFF#8 : Byte) ≠ 0x00#8 ∧ gmul 0x53#8 0xCA#8 = 0x01#8 := by decide

theorem witness_sbox_construction :
    (if (0x00#8 : Byte) = 0x00#8 then (0x00#8 : Byte) = 0x00#8 else gmul 0x00#8 0x00#8 = 0x01#8) ∧
    (if (0x53#8 : Byte) = 0x00#8 then (0xCA#8 : Byte) = 0x00#8 else gmul 0x53#8 0xCA#8 = 0x01#8) := by decide

theorem witness_completion : keyed.sv = true ∧ blank.sv = false := by decide

theorem witness_without_schedule : exec (.enc katPlain) blank = .fault .noSchedule ∧ blank.phase = .idle ∧
    blank.sv = false ∧ (blank.setHost [.command 0b10#2 0#128]).host = .command 0b10#2 0#128 :: [] ∧
    (blank.setHost [.edge ⟨false, true, 0b11#2, 0#128⟩]).host = .edge ⟨false, true, 0b11#2, 0#128⟩ :: [] := ⟨rfl, rfl, rfl, rfl, rfl⟩

theorem witness_frame : (∃ t, exec (.keyexp katKey) blank = .next t) ∧ (∃ t, exec (.enc katPlain) keyed = .next t) ∧
    ∃ t, exec (.dec katCipher) keyed = .next t := ⟨⟨_, rfl⟩, ⟨_, rfl⟩, ⟨_, rfl⟩⟩

theorem witness_events : ((busyWith (.enc zero) 1).setHost [.reset]).host = .reset :: [] ∧
    (blank.setHost [.command 0b01#2 0#128]).phase = .idle ∧
    (keyed.setHost [.command 0b10#2 0#128]).sv = true ∧ (keyed.setHost [.command 0b11#2 0#128]).sv = true ∧
    (blank.setHost [.command 0b11#2 0#128]).sv = false ∧
    (keyed.setHost [.command 0b00#2 0#128]).phase = .idle ∧
    (keyed.setHost [.read true]).blk ≠ none ∧ (blank.setHost [.read false]).phase = .idle := by decide

theorem witness_pure : needsSchedule (.dec katCipher) = true ∧ keyed.rk = (keyed.setBlk none).rk ∧
    (∃ t, exec (.dec katCipher) keyed = .next t) ∧ ∃ t, exec (.dec katCipher) (keyed.setBlk none) = .next t :=
  ⟨rfl, rfl, ⟨_, rfl⟩, ⟨_, rfl⟩⟩

theorem witness_mix : keyed.phase = .idle ∧ keyed.sv = true ∧
    (∀ i ∈ [Instr.enc katPlain, Instr.dec zero], needsSchedule i = true) ∧ needsSchedule (.enc zero) = true ∧
    (keyed.setHost (([Instr.enc katPlain, Instr.dec zero].map HostMove.ofInstr ++ [HostMove.ofInstr (.enc zero)]) ++
      [.reset])).host = ([Instr.enc katPlain, Instr.dec zero].map HostMove.ofInstr ++ [HostMove.ofInstr (.enc zero)]) ++
      [.reset] := by decide

theorem witness_latest_key : (∃ t, exec (.keyexp katKey) blank = .next t) ∧ (∃ t, exec (.keyexp katKey) keyed = .next t) ∧
    keyed.sv = true ∧ keyed.rk = keyExpansion katKey ∧ keyed.phase = .idle ∧
    (keyed.setHost [HostMove.ofInstr (.keyexp zero), HostMove.ofInstr (.keyexp katKey), HostMove.ofInstr (.enc zero)]).host =
      HostMove.ofInstr (.keyexp zero) :: HostMove.ofInstr (.keyexp katKey) :: HostMove.ofInstr (.enc zero) :: [] :=
  ⟨⟨_, rfl⟩, ⟨_, rfl⟩, rfl, rfl, rfl, rfl⟩

theorem witness_deck : (blank.setHost (deckMoves katCipher katKey ++ [])).phase = .idle ∧
    (blank.setHost (deckMoves katCipher katKey ++ [])).host = deckMoves katCipher katKey ++ [] := by decide

/-- Reset as a move, and at an edge with an offer, also while a command is in progress; and two in a row. -/
theorem witness_reset : HostMove.reset.resets = true ∧ (HostMove.edge resetPins).resets = true ∧
    ((busyWith (.keyexp zero) 1).setHost [.edge resetPins]).host = .edge resetPins :: [] ∧
    (dark.setHost [.reset, .reset]).host = .reset :: .reset :: [] := by decide

/-- A Reset that clears both items. -/
theorem witness_only_reset : (∃ t, step (keyed.setHost [.reset]) = .next t ∧ t.sv = false ∧ t.blk = none) ∧
    losesPowerNext (keyed.setHost [.reset]) = false ∧ keyed.sv = true ∧ keyed.blk ≠ none :=
  ⟨⟨_, rfl, rfl, rfl⟩, rfl, rfl, by decide⟩

/-- An event that completes no command, and one that completes the command in progress at its last edge. -/
theorem witness_only_commands :
    (∃ t, step (keyed.setHost [.read true]) = .next t) ∧ losesPowerNext (keyed.setHost [.read true]) = false ∧
    resetsNext (keyed.setHost [.read true]) = false ∧ completesNext (keyed.setHost [.read true]) = none ∧
    (∃ t, step ((busyWith (.enc zero) 1).setHost [.edge quietPins]) = .next t) ∧
    resetsNext ((busyWith (.enc zero) 1).setHost [.edge quietPins]) = false ∧
    losesPowerNext ((busyWith (.enc zero) 1).setHost [.edge quietPins]) = false ∧
    completesNext ((busyWith (.enc zero) 1).setHost [.edge quietPins]) = some (.enc zero) :=
  ⟨⟨_, rfl⟩, rfl, rfl, rfl, ⟨_, rfl⟩, rfl, rfl, rfl⟩

theorem witness_step : keyed.phase = .idle ∧ decode (commandWord 0b11#2 0#128) = .command (.dec zero) ∧
    (keyed.setHost [.command 0b11#2 0#128]).host = .command 0b11#2 0#128 :: [] ∧
    (keyed.setHost [HostMove.ofInstr (.keyexp zero)]).host = HostMove.ofInstr (.keyexp zero) :: [] ∧
    decodeTableWord 130 0x100000000000000000000000000000000 = some (.keyexp zero) := by decide

theorem witness_read : (keyed.setHost [.read true]).host = .read true :: [] ∧ keyed.blk = some katCipher ∧
    (blank.setHost [.read false]).host = .read false :: [] ∧ blank.phase = .idle ∧
    (blank.setHost [.read true]).host = .read true :: [] ∧ blank.blk = none ∧
    ((busyWith (.dec zero) 1).setHost [.read true]).phase = .busy (.dec zero) 1 := by decide

/-- An acceptance of a transform with a schedule, and of KEYEXP without one. -/
theorem witness_accept : keyed.phase = .idle ∧ decode (commandWord 0b10#2 0#128) = .command (.enc zero) ∧
    (needsSchedule (.enc zero) = true → keyed.sv = true) ∧
    blank.phase = .idle ∧ decode (commandWord 0b01#2 0#128) = .command (.keyexp zero) ∧
    (needsSchedule (.keyexp zero) = true → blank.sv = true) := by decide

theorem witness_busy : (busyWith (.enc zero) 2).phase = .busy (.enc zero) 2 ∧ 1 < 2 ∧ quietPins.rst = false ∧
    (Pins.mk false true 0b01#2 0#128).rst = false := by decide

/-- An edge on an idle core; an edge with two to go, which does not complete, and the last one, which does. -/
theorem witness_done : keyed.phase = .idle ∧ (∃ t, clockEdge quietPins keyed = .next t) ∧
    (∃ t, clockEdge quietPins (busyWith (.enc zero) 2) = .next t) ∧
    (∃ t, clockEdge quietPins (busyWith (.enc zero) 1) = .next t) := ⟨rfl, ⟨_, rfl⟩, ⟨_, rfl⟩, ⟨_, rfl⟩⟩

theorem witness_handshake :
    let p : Pins := ⟨false, true, 0b10#2, 0#128⟩
    let later := List.replicate (latency (.enc zero)) quietPins
    keyed.phase = .idle ∧ p.rst = false ∧ p.start = true ∧ decode (commandWord p.op p.din) = .command (.enc zero) ∧
    later.length = latency (.enc zero) ∧
    (keyed.setHost (.edge p :: (edgesWithoutReset later ++ [.read true]))).host =
      .edge p :: (edgesWithoutReset later ++ [.read true]) :=
  ⟨rfl, rfl, rfl, by decide, List.length_replicate, rfl⟩

/-- The invariant with a schedule and a result present. -/
theorem witness_invariant : Inv keyed ∧ keyed.phase ≠ .unreset ∧
    ∃ t, step (keyed.setHost [HostMove.ofInstr (.dec zero)]) = .next t ∧ t.sv = true ∧ t.blk.isSome = true :=
  ⟨fun _ => ⟨fun _ => rfl, fun _ => rfl, fun _ _ h => by simp [keyed] at h⟩, by decide, ⟨_, rfl, rfl, rfl⟩⟩

/-- The invariant while a command is in progress, at its last edge. -/
theorem witness_completes :
    Inv ((busyWith (.dec zero) 1).setHost (edgesWithoutReset [quietPins] ++ [])) ∧
    (busyWith (.dec zero) 1).phase = .busy (.dec zero) 1 ∧ [quietPins].length = 1 := by
  refine ⟨fun _ => ⟨fun _ => rfl, fun _ => rfl, ?_⟩, rfl, rfl⟩
  intro i left h
  cases h
  exact ⟨le_rfl, latency_pos _, fun _ => rfl, rfl⟩

/-- After a loss of power: a move that is refused, and a Reset. -/
theorem witness_power : (keyed.setHost [.power, .read false]).host = .power :: [.read false] ∧
    (HostMove.read false).resets = false ∧ HostMove.read false ≠ .power ∧ HostMove.reset.resets = true := by decide

/-- Each verdict on the host's next move. -/
theorem witness_stops : brokenDuty (keyed.setHost [.read true]) = none ∧
    brokenDuty (blank.setHost [.command 0b10#2 0#128]) = some (.fault .noSchedule) ∧
    brokenDuty (blank.setHost [.edge ⟨false, true, 0b11#2, 0#128⟩]) = some (.fault .noSchedule) ∧
    brokenDuty (blank.setHost [.read true]) = some (.fault .readUnwritten) ∧
    brokenDuty (dark.setHost [.read false]) = some (.refused .beforeReset) := by decide

theorem witness_stops_invariant : Inv blank ∧ Inv dark :=
  ⟨fun _ => ⟨fun h => by simp [blank] at h, fun h => by simp [blank] at h, fun _ _ h => by simp [blank] at h⟩,
    fun h => absurd rfl h⟩

theorem witness_disciplined :
    Disciplined (dark.setHost [.reset, .command 0b01#2 0#128, .read false, .command 0b10#2 0#128, .read true]) = true := by
  decide

/-- Events that complete no transform: a read, and a KEYEXP. -/
theorem witness_hidden :
    (∀ i, completesNext (keyed.setHost [.read true]) = some i → needsSchedule i = false) ∧
    (∀ i, completesNext (blank.setHost [HostMove.ofInstr (.keyexp katKey)]) = some i → needsSchedule i = false) ∧
    (∃ t, exec (.keyexp katKey) blank = .next t) ∧ ∃ t, exec (.keyexp zero) blank = .next t := by
  refine ⟨?_, ?_, ⟨_, rfl⟩, ⟨_, rfl⟩⟩
  · intro i h; cases h
  · intro i h
    have : completesNext (blank.setHost [HostMove.ofInstr (.keyexp katKey)]) = some (.keyexp katKey) := by decide
    rw [this] at h
    cases h
    rfl

end Sys2Proof.Tests
end

section
/-! Proofs of the family 00_scope.md: the step case by case, the handshake edge by edge, where a step stops, the host
that keeps its duties, and the byte views of the schedule store. -/

namespace Sys2Proof.Machine

/-! ### What each move and each edge does, one equation per case -/

theorem accept_of_schedule {i : Instr} {s : State} (h : needsSchedule i = true → s.sv = true) :
    accept i s = .next ((s.setDone false).setPhase (.busy i (latency i))) := by
  have hno : ¬ (needsSchedule i && !s.sv) = true := by simpa using h
  simp [accept, hno]

theorem accept_without_schedule {i : Instr} {s : State} (hi : needsSchedule i = true) (hs : s.sv = false) :
    accept i s = .fault .noSchedule := by
  simp [accept, hi, hs]

theorem exec_without_schedule {i : Instr} {s : State} (hi : needsSchedule i = true) (hs : s.sv = false) :
    exec i s = .fault .noSchedule := by
  cases i with
  | keyexp key => cases hi
  | enc block => simp [execEnc, hs]
  | dec block => simp [execDec, hs]

theorem exec_of_schedule {i : Instr} {s : State} (h : needsSchedule i = true → s.sv = true) :
    ∃ t, exec i s = .next t := by
  obtain ht | ⟨hi, hs, -⟩ := exec_stops i s
  · exact ht
  · exact absurd (h hi) (by simp [hs])

/-- A completion drives `done` whatever it was before (R28). -/
@[simp] theorem exec_setDone (i : Instr) (s : State) (d : Bool) : exec i (s.setDone d) = exec i s := by
  cases i with
  | keyexp key => rfl
  | enc block => cases hs : s.sv <;> simp [execEnc, hs, State.setDone, State.setBlk]
  | dec block => cases hs : s.sv <;> simp [execDec, hs, State.setDone, State.setBlk]

/-- A transform with a schedule writes its result and nothing else, and pulses `done` (R115, R135). -/
theorem exec_transform {i : Instr} {s : State} (hi : needsSchedule i = true) (hs : s.sv = true) :
    ∃ b, exec i s = .next ((s.setBlk (some b)).setDone true) := by
  cases i with
  | keyexp key => cases hi
  | enc block => exact ⟨cipher block s.rk, by simp [execEnc, hs]⟩
  | dec block => exact ⟨invCipher block s.rk, by simp [execDec, hs]⟩

/-- A completed command leaves the handshake, the host and the record of reads alone, and pulses `done` (R28, R32). -/
theorem exec_next_frame {i : Instr} {s t : State} (h : exec i s = .next t) :
    t.phase = s.phase ∧ t.done = true ∧ t.host = s.host ∧ t.reads = s.reads ∧ t.draws = s.draws := by
  obtain ⟨_, -, rfl⟩ | ⟨_, -, -, rfl⟩ | ⟨_, -, -, rfl⟩ := exec_next h <;> exact ⟨rfl, rfl, rfl, rfl, rfl⟩

theorem clockEdge_reset {p : Pins} (hr : p.rst = true) (s : State) : clockEdge p s = .next s.resetEvent := by
  simp [clockEdge, hr]

theorem clockEdge_offer {p : Pins} {s : State} {i : Instr} (hp : s.phase = .idle) (hr : p.rst = false)
    (hs : p.start = true) (hd : decode (commandWord p.op p.din) = .command i) : clockEdge p s = accept i s := by
  simp [clockEdge, clockedPhase, hp, hr, hs, hd]

theorem clockEdge_emptyOffer {p : Pins} {s : State} (hp : s.phase = .idle) (hr : p.rst = false)
    (hs : p.start = true) (hd : decode (commandWord p.op p.din) = .noCommand) :
    clockEdge p s = .next (s.setDone false) := by
  simp [clockEdge, clockedPhase, hp, hr, hs, hd]

theorem clockEdge_noOffer {p : Pins} {s : State} (hp : s.phase = .idle) (hr : p.rst = false)
    (hs : p.start = false) : clockEdge p s = .next (s.setDone false) := by
  simp [clockEdge, clockedPhase, hp, hr, hs]

theorem clockEdge_countDown {p : Pins} {s : State} {i : Instr} {left : Nat} (hp : s.phase = .busy i left)
    (hr : p.rst = false) (hl : 1 < left) :
    clockEdge p s = .next ((s.setDone false).setPhase (.busy i (left - 1))) := by
  have : ¬ left ≤ 1 := by omega
  simp [clockEdge, clockedPhase, hp, hr, this]

theorem clockEdge_lastEdge {p : Pins} {s : State} {i : Instr} {left : Nat} (hp : s.phase = .busy i left)
    (hr : p.rst = false) (hl : left ≤ 1) : clockEdge p s = finish i s := by
  simp [clockEdge, clockedPhase, hp, hr, hl]

theorem clockEdge_unreset {p : Pins} {s : State} (hp : s.phase = .unreset) (hr : p.rst = false) :
    clockEdge p s = .refused .beforeReset := by
  simp [clockEdge, clockedPhase, hp, hr]

theorem whenReady_idle {s : State} (hp : s.phase = .idle) (go : Host.Outcome State Fault Refusal) :
    whenReady s go = go := by
  simp [whenReady, hp]

theorem whenReady_busy {s : State} {i : Instr} {left : Nat} (hp : s.phase = .busy i left)
    (go : Host.Outcome State Fault Refusal) : whenReady s go = finish i s := by
  simp [whenReady, hp]

theorem whenReady_unreset {s : State} (hp : s.phase = .unreset) (go : Host.Outcome State Fault Refusal) :
    whenReady s go = .refused .beforeReset := by
  simp [whenReady, hp]

theorem runCommandWord_command {op : BitVec 2} {din : BitVec 128} {i : Instr}
    (hd : decode (commandWord op din) = .command i) (s : State) : runCommandWord op din s = exec i s := by
  simp [runCommandWord, hd]

theorem runCommandWord_noCommand {op : BitVec 2} {din : BitVec 128}
    (hd : decode (commandWord op din) = .noCommand) (s : State) :
    runCommandWord op din s = .next (s.setDone false) := by
  simp [runCommandWord, hd]

theorem silentHost_idle {s : State} (hp : s.phase = .idle) : silentHost s = .next (s.setDone false) := by
  simp [silentHost, hp]

theorem silentHost_busy {s : State} {i : Instr} {left : Nat} (hp : s.phase = .busy i left) :
    silentHost s = finish i s := by
  simp [silentHost, hp]

theorem silentHost_unreset {s : State} (hp : s.phase = .unreset) : silentHost s = .next s := by
  simp [silentHost, hp]

/-- A read goes on where it does not use `dout`, or a transform has completed (R26, R28). -/
theorem readPorts_of_written {u : Bool} {s : State} (h : u = true → s.blk.isSome = true) :
    ∃ v, readPorts u s = .next (s.addRead v) := by
  cases u with
  | false => exact ⟨_, rfl⟩
  | true =>
    obtain ⟨b, hb⟩ := Option.isSome_iff_exists.mp (h rfl)
    exact ⟨⟨some (packPort b), s.sv⟩, by simp [readPorts, hb]⟩

theorem step_reset {s : State} {rest : List HostMove} (h : s.host = .reset :: rest) :
    step s = .next (s.setHost rest).resetEvent := step_move h

theorem step_power {s : State} {rest : List HostMove} (h : s.host = .power :: rest) :
    step s = .next (s.setHost rest).powerEvent := step_move h

theorem step_command {s : State} {op : BitVec 2} {din : BitVec 128} {rest : List HostMove}
    (h : s.host = .command op din :: rest) :
    step s = whenReady s (runCommandWord op din (s.setHost rest)) := step_move h

theorem step_read {s : State} {u : Bool} {rest : List HostMove} (h : s.host = .read u :: rest) :
    step s = whenReady s (readPorts u (s.setHost rest)) := step_move h

theorem step_edge {s : State} {p : Pins} {rest : List HostMove} (h : s.host = .edge p :: rest) :
    step s = clockEdge p (s.setHost rest) := step_move h

/-! ### The handshake edge by edge -/

/-- Settles O47: the acceptance of `accept`, at an edge that offers to an idle core. -/
theorem edgeAcceptsOffer : Obligations.EdgeAcceptsOffer := by
  intro s p i hp hr hs hd hsv
  exact ⟨latency_pos i, _, (clockEdge_offer hp hr hs hd).trans (accept_of_schedule hsv), rfl, rfl, rfl, rfl, rfl, rfl,
    rfl, rfl, rfl⟩

theorem runSteps_next {s t : State} (h : step s = .next t) (n : Nat) : runSteps (n + 1) s = runSteps n t := by
  simp [runSteps, h]

theorem runSteps_fault {s : State} {r : Fault} (h : step s = .fault r) (n : Nat) :
    runSteps (n + 1) s = .fault r := by
  simp [runSteps, h]

theorem runSteps_one (s : State) : runSteps 1 s = step s := by
  unfold runSteps
  cases step s <;> rfl

/-- A command in progress with one edge left per pin value ends as the command itself does (R28): each edge but the
last counts down and keeps `done` at 0, which the completion does not see. -/
theorem runSteps_busy {i : Instr} {rest : List HostMove} (p : Pins) (pins : List Pins) {s : State}
    (hp : s.phase = .busy i (pins.length + 1)) (hh : s.host = edgesWithoutReset (p :: pins) ++ rest) :
    runSteps (pins.length + 1) s = exec i ((s.setPhase .idle).setHost rest) := by
  induction pins generalizing p s with
  | nil =>
    rw [List.length_nil, runSteps_one]
    exact (step_edge hh).trans (clockEdge_lastEdge hp rfl (by simp))
  | cons q pins ih =>
    have hstep := (step_edge hh).trans (clockEdge_countDown hp rfl (by simp))
    rw [List.length_cons, runSteps_next hstep, ih q (by simp) rfl]
    exact exec_setDone i ((s.setPhase .idle).setHost rest) false

/-- Settles O51: the run of the remaining edges is the command, whose schedule the invariant gives. -/
theorem everyCommandCompletes : Obligations.EveryCommandCompletes := by
  intro s i left pins rest hinv hp hlen hh
  obtain ⟨hpos, -, hsv, -⟩ := (hinv (by simp [hp])).inProgress i left hp
  obtain ⟨t, ht⟩ := exec_of_schedule (s := (s.setPhase .idle).setHost rest) hsv
  obtain ⟨hphase, hdone, hhost, -, -⟩ := exec_next_frame ht
  cases pins with
  | nil => simp at hlen; omega
  | cons p pins =>
    subst hlen
    exact ⟨t, (runSteps_busy p pins hp hh).trans ht, ht, t.ready_iff.mpr hphase, hdone, hhost⟩

/-- Settles O50: an acceptance with a schedule leads to the run of the busy edges, one without to the same fault. -/
theorem handshakeImplementsTransaction : Obligations.HandshakeImplementsTransaction := by
  intro s p later rest i hp hr hs hd hlen hh
  have htransaction : step (s.setHost (.command p.op p.din :: rest)) = exec i (s.setHost rest) :=
    (step_command (rest := rest) rfl).trans
      ((whenReady_idle (s := s.setHost (.command p.op p.din :: rest)) hp _).trans (runCommandWord_command hd _))
  have hoffer : step s = accept i (s.setHost (edgesWithoutReset later ++ rest)) :=
    (step_edge hh).trans (clockEdge_offer hp hr hs hd)
  rw [htransaction]
  by_cases hsv : needsSchedule i = true → s.sv = true
  · rw [runSteps_next (hoffer.trans (accept_of_schedule hsv))]
    obtain _ | ⟨q, later⟩ := later
    · have := latency_pos i; simp at hlen; omega
    · have hidle : s.setPhase .idle = s := by rw [← hp]; rfl
      rw [← hlen, List.length_cons, runSteps_busy (i := i) q later rfl rfl]
      calc _ = exec i (((s.setPhase .idle).setHost rest).setDone false) := rfl
        _ = exec i (s.setHost rest) := by rw [exec_setDone, hidle]
  · obtain ⟨hi, hno⟩ : needsSchedule i = true ∧ s.sv = false := by simpa using hsv
    rw [runSteps_fault (hoffer.trans (accept_without_schedule hi hno)),
      exec_without_schedule (s := s.setHost rest) hi hno]

/-! ### Where a step stops -/

/-- The stop of an outcome, `none` for a next state. -/
def stopOf : Host.Outcome State Fault Refusal → Option Stop
  | .next _ => none
  | .fault r => some (.fault r)
  | .refused r => some (.refused r)

theorem stopOf_eq_none {o : Host.Outcome State Fault Refusal} : stopOf o = none ↔ ∃ t, o = .next t := by
  cases o <;> simp [stopOf]

theorem stopOf_eq_fault {o : Host.Outcome State Fault Refusal} {r : Fault} :
    stopOf o = some (.fault r) ↔ o = .fault r := by
  cases o <;> simp [stopOf]

theorem stopOf_eq_refused {o : Host.Outcome State Fault Refusal} {r : Refusal} :
    stopOf o = some (.refused r) ↔ o = .refused r := by
  cases o <;> simp [stopOf]

/-- The stop of a command that is executed or accepted: a transform without a schedule (R158). -/
def scheduleStop (i : Instr) (s : State) : Option Stop :=
  if needsSchedule i && !s.sv then some (.fault .noSchedule) else none

theorem scheduleStop_eq_none {i : Instr} {s : State} (h : needsSchedule i = true → s.sv = true) :
    scheduleStop i s = none := by
  simpa [scheduleStop] using h

theorem stopOf_exec (i : Instr) (s : State) : stopOf (exec i s) = scheduleStop i s := by
  by_cases h : needsSchedule i = true → s.sv = true
  · obtain ⟨t, ht⟩ := exec_of_schedule h
    rw [ht, scheduleStop_eq_none h]; rfl
  · obtain ⟨hi, hs⟩ : needsSchedule i = true ∧ s.sv = false := by simpa using h
    simp [exec_without_schedule hi hs, stopOf, scheduleStop, hi, hs]

theorem stopOf_accept (i : Instr) (s : State) : stopOf (accept i s) = scheduleStop i s := by
  unfold accept scheduleStop
  split <;> rfl

/-- The stop of an offered command word. -/
def offerStop (s : State) (op : BitVec 2) (din : BitVec 128) : Option Stop :=
  if offersWithoutSchedule s op din then some (.fault .noSchedule) else none

theorem offerStop_command {op : BitVec 2} {din : BitVec 128} {i : Instr}
    (hd : decode (commandWord op din) = .command i) (s : State) : offerStop s op din = scheduleStop i s := by
  simp [offerStop, scheduleStop, offersWithoutSchedule, commandOf, hd]

theorem offerStop_noCommand {op : BitVec 2} {din : BitVec 128}
    (hd : decode (commandWord op din) = .noCommand) (s : State) : offerStop s op din = none := by
  simp [offerStop, offersWithoutSchedule, commandOf, hd]

theorem stopOf_runCommandWord (op : BitVec 2) (din : BitVec 128) (s : State) :
    stopOf (runCommandWord op din s) = offerStop s op din := by
  cases hd : decode (commandWord op din) with
  | command i => rw [runCommandWord_command hd, stopOf_exec, offerStop_command hd]
  | noCommand => rw [runCommandWord_noCommand hd, offerStop_noCommand hd]; rfl

theorem stopOf_readPorts (u : Bool) (s : State) :
    stopOf (readPorts u s) = if u && s.blk.isNone then some (.fault .readUnwritten) else none := by
  cases u with
  | false => rfl
  | true => cases hb : s.blk <;> simp [readPorts, hb, stopOf]

/-- An edge at an idle core stops where it, without `rst`, offers a transform without a schedule (R28, R158). -/
theorem stopOf_clockEdge_idle {p : Pins} {s : State} (hp : s.phase = .idle) :
    stopOf (clockEdge p s) =
      if !p.rst && p.start && offersWithoutSchedule s p.op p.din then some (.fault .noSchedule) else none := by
  cases hr : p.rst with
  | true => simp [clockEdge_reset hr, stopOf]
  | false =>
    cases hs : p.start with
    | false => simp [clockEdge_noOffer hp hr hs, stopOf]
    | true =>
      cases hd : decode (commandWord p.op p.din) with
      | command i =>
        rw [clockEdge_offer hp hr hs hd, stopOf_accept, ← offerStop_command hd]; rfl
      | noCommand =>
        rw [clockEdge_emptyOffer hp hr hs hd]; exact (offerStop_noCommand hd s).symm

theorem stopOf_step_idle {s : State} (hp : s.phase = .idle) : stopOf (step s) = brokenDuty s := by
  unfold brokenDuty
  rw [hp]
  cases hh : s.host with
  | nil => rw [step_silent hh, silentHost_idle hp]; rfl
  | cons m rest =>
    cases m with
    | reset => rw [step_reset hh]; rfl
    | power => rw [step_power hh]; rfl
    | command op din => rw [step_command hh, whenReady_idle hp]; exact stopOf_runCommandWord op din _
    | read u => rw [step_read hh, whenReady_idle hp]; exact stopOf_readPorts u _
    | edge p => rw [step_edge hh]; exact stopOf_clockEdge_idle hp

theorem stopOf_step_unreset {s : State} (hp : s.phase = .unreset) : stopOf (step s) = brokenDuty s := by
  unfold brokenDuty
  rw [hp]
  cases hh : s.host with
  | nil => rw [step_silent hh, silentHost_unreset hp]; rfl
  | cons m rest =>
    cases m with
    | reset => rw [step_reset hh]; rfl
    | power => rw [step_power hh]; rfl
    | command op din => rw [step_command hh, whenReady_unreset hp]; rfl
    | read u => rw [step_read hh, whenReady_unreset hp]; rfl
    | edge p =>
      rw [step_edge hh]
      cases hr : p.rst with
      | true => rw [clockEdge_reset hr]; simp [stopOf, hr]
      | false => rw [clockEdge_unreset (s := s.setHost rest) hp hr]; simp [stopOf, hr]

/-- A command in progress that had its schedule at acceptance never stops the run (R160). -/
theorem stopOf_step_busy {s : State} {i : Instr} {left : Nat} (hp : s.phase = .busy i left)
    (hsv : needsSchedule i = true → s.sv = true) : stopOf (step s) = brokenDuty s := by
  have hfinish (moves : List HostMove) : stopOf (finish i (s.setHost moves)) = none :=
    (stopOf_exec i _).trans (scheduleStop_eq_none hsv)
  unfold brokenDuty
  rw [hp]
  cases hh : s.host with
  | nil => rw [step_silent hh, silentHost_busy hp]; exact hfinish s.host
  | cons m rest =>
    cases m with
    | reset => rw [step_reset hh]; rfl
    | power => rw [step_power hh]; rfl
    | command op din => rw [step_command hh, whenReady_busy hp]; exact hfinish s.host
    | read u => rw [step_read hh, whenReady_busy hp]; exact hfinish s.host
    | edge p =>
      rw [step_edge hh]
      cases hr : p.rst with
      | true => rw [clockEdge_reset hr]; rfl
      | false =>
        by_cases hl : left ≤ 1
        · rw [clockEdge_lastEdge (s := s.setHost rest) hp hr hl]; exact hfinish rest
        · rw [clockEdge_countDown (s := s.setHost rest) hp hr (by omega)]; rfl

/-- With the invariant a step stops as the host's next move breaks a duty, and only so. -/
theorem stopOf_step {s : State} (h : Inv s) : stopOf (step s) = brokenDuty s := by
  cases hp : s.phase with
  | idle => exact stopOf_step_idle hp
  | busy i left =>
    obtain ⟨-, -, hsv, -⟩ := (h (by simp [hp])).inProgress i left hp
    exact stopOf_step_busy hp hsv
  | unreset => exact stopOf_step_unreset hp

/-- Settles O55: the stop of a step is the broken duty, in each phase of the handshake. -/
theorem stopsExactlyOnBrokenDuty : Obligations.StopsExactlyOnBrokenDuty := by
  intro s hinv
  rw [← stopOf_step hinv]
  exact ⟨stopOf_eq_none.mp, fun _ => stopOf_eq_fault.mp, fun _ => stopOf_eq_refused.mp⟩

/-! ### A host that keeps its duties -/

theorem decode_emptyCode (din : BitVec 128) : decode (commandWord 0b00#2 din) = .noCommand := by
  simp [decode, (Laws.Encoding.fields_commandWord _ din).1]

theorem decode_keyexpCode (din : BitVec 128) :
    decode (commandWord 0b01#2 din) = .command (.keyexp (bytesOfPort din)) := by
  obtain ⟨hop, hdin⟩ := Laws.Encoding.fields_commandWord 0b01#2 din
  simp [decode, hop, hdin]

/-- The codes `10` and `11` are the transforms (R62). -/
theorem decode_transformCode {op : BitVec 2} (h0 : op ≠ 0b00#2) (h1 : op ≠ 0b01#2) (din : BitVec 128) :
    ∃ i, decode (commandWord op din) = .command i ∧ needsSchedule i = true := by
  have hop := (Laws.Encoding.fields_commandWord op din).1
  by_cases h2 : op = 0b10#2
  · exact ⟨.enc _, by rw [decode, hop, if_neg h1, if_pos h2], rfl⟩
  · have h3 : op = 0b11#2 := by bv_omega
    exact ⟨.dec _, by rw [decode, hop, if_neg h1, if_neg h2, if_pos h3], rfl⟩

theorem disciplined_idle {s : State} (hp : s.phase = .idle) :
    Disciplined s = keepsDuties true s.sv s.blk.isSome s.host := by
  simp [Disciplined, hp]

theorem disciplined_unreset {s : State} (hp : s.phase = .unreset) :
    Disciplined s = keepsDuties false false false s.host := by
  simp [Disciplined, hp]

@[simp] theorem disciplined_resetEvent (s : State) :
    Disciplined s.resetEvent = keepsDuties true false false s.host := rfl

@[simp] theorem disciplined_powerEvent (s : State) :
    Disciplined s.powerEvent = keepsDuties false false false s.host := rfl

/-- A command word that keeps the duties of the host leads a ready core to where the rest keeps them: KEYEXP brings the
schedule, a transform finds it and brings the result (R100, R115, R135). -/
theorem runCommandWord_disciplined {s : State} {op : BitVec 2} {din : BitVec 128} (hp : s.phase = .idle)
    (h : keepsDuties true s.sv s.blk.isSome (.command op din :: s.host) = true) :
    ∃ t, runCommandWord op din s = .next t ∧ Disciplined t = true := by
  by_cases h0 : op = 0b00#2
  · subst h0
    exact ⟨_, runCommandWord_noCommand (decode_emptyCode din) s, by simpa [disciplined_idle, hp, keepsDuties] using h⟩
  by_cases h1 : op = 0b01#2
  · subst h1
    exact ⟨_, runCommandWord_command (decode_keyexpCode din) s, by simpa [disciplined_idle, hp, keepsDuties] using h⟩
  · obtain ⟨hsv, hrest⟩ : s.sv = true ∧ keepsDuties true s.sv true s.host = true := by
      simpa [keepsDuties, h0, h1] using h
    obtain ⟨i, hd, hi⟩ := decode_transformCode h0 h1 din
    obtain ⟨b, hb⟩ := exec_transform hi hsv
    exact ⟨_, (runCommandWord_command hd s).trans hb, by simpa [disciplined_idle, hp, hsv] using hrest⟩

/-- A read that keeps the duties of the host leads a ready core to where the rest keeps them (R32). -/
theorem readPorts_disciplined {s : State} {u : Bool} (hp : s.phase = .idle)
    (h : keepsDuties true s.sv s.blk.isSome (.read u :: s.host) = true) :
    ∃ t, readPorts u s = .next t ∧ Disciplined t = true := by
  obtain ⟨hu, hrest⟩ : (u = true → s.blk.isSome = true) ∧ keepsDuties true s.sv s.blk.isSome s.host = true := by
    simpa [keepsDuties, or_iff_not_imp_left] using h
  obtain ⟨v, hv⟩ := readPorts_of_written hu
  exact ⟨_, hv, by simpa [disciplined_idle, hp] using hrest⟩

theorem step_disciplined_idle {s : State} (hp : s.phase = .idle) (h : Disciplined s = true) :
    ∃ t, step s = .next t ∧ Disciplined t = true := by
  rw [disciplined_idle hp] at h
  cases hh : s.host with
  | nil => exact ⟨_, (step_silent hh).trans (silentHost_idle hp), by simp [disciplined_idle, hp, hh, keepsDuties]⟩
  | cons m rest =>
    rw [hh] at h
    cases m with
    | reset => exact ⟨_, step_reset hh, h⟩
    | power => exact ⟨_, step_power hh, h⟩
    | command op din =>
      rw [step_command hh, whenReady_idle hp]
      exact runCommandWord_disciplined (s := s.setHost rest) hp h
    | read u =>
      rw [step_read hh, whenReady_idle hp]
      exact readPorts_disciplined (s := s.setHost rest) hp h
    | edge p =>
      cases hr : p.rst with
      | true => exact ⟨_, (step_edge hh).trans (clockEdge_reset hr _), by simpa [keepsDuties, hr] using h⟩
      | false =>
        obtain ⟨hs, hrest⟩ : p.start = false ∧ keepsDuties true s.sv s.blk.isSome rest = true := by
          simpa [keepsDuties, hr] using h
        exact ⟨_, (step_edge hh).trans (clockEdge_noOffer hp hr hs), by simpa [disciplined_idle, hp] using hrest⟩

theorem step_disciplined_unreset {s : State} (hp : s.phase = .unreset) (h : Disciplined s = true) :
    ∃ t, step s = .next t ∧ Disciplined t = true := by
  have hmoves := h
  rw [disciplined_unreset hp] at hmoves
  cases hh : s.host with
  | nil => exact ⟨s, (step_silent hh).trans (silentHost_unreset hp), h⟩
  | cons m rest =>
    rw [hh] at hmoves
    cases m with
    | reset => exact ⟨_, step_reset hh, hmoves⟩
    | power => exact ⟨_, step_power hh, hmoves⟩
    | command op din => simp [keepsDuties] at hmoves
    | read u => simp [keepsDuties] at hmoves
    | edge p =>
      cases hr : p.rst with
      | true => exact ⟨_, (step_edge hh).trans (clockEdge_reset hr _), by simpa [keepsDuties, hr] using hmoves⟩
      | false => simp [keepsDuties, hr] at hmoves

/-- Between transactions, with a host that keeps its duties, a step answers a state that is so again. -/
theorem step_disciplined {s : State} (h : Disciplined s = true) :
    ∃ t, step s = .next t ∧ Disciplined t = true := by
  cases hp : s.phase with
  | idle => exact step_disciplined_idle hp h
  | busy i left => simp [Disciplined, hp] at h
  | unreset => exact step_disciplined_unreset hp h

theorem runSteps_disciplined (n : Nat) {s : State} (h : Disciplined s = true) : ∃ t, runSteps n s = .next t := by
  induction n generalizing s with
  | zero => exact ⟨s, rfl⟩
  | succ n ih =>
    obtain ⟨t, ht, hd⟩ := step_disciplined h
    rw [runSteps_next ht]
    exact ih hd

/-- Settles O56: the discipline is an invariant of the step, and the run follows by induction on its length. -/
theorem disciplinedHostNeverStops : Obligations.DisciplinedHostNeverStops :=
  ⟨fun _ h => step_disciplined h, fun _ n h => runSteps_disciplined n h⟩

end Sys2Proof.Machine

namespace Sys2Proof

/-! ### The views of the 176 schedule bytes -/

theorem Block.eq_of_byte {x y : Block} (h : ∀ i, x.byte i = y.byte i) : x = y :=
  Block.eq_of_cell fun r c => by
    have := h ⟨4 * c.val + r.val, by omega⟩
    fin_cases r <;> fin_cases c <;> exact this

/-- Schedule byte `16r + i` is byte `i` of round key `r` (R41). -/
theorem scheduleByte_roundKey (rk : Schedule) (r : Fin 11) (i : Fin 16) :
    scheduleByte rk ⟨16 * r.val + i.val, by omega⟩ = rk[r].byte i := by
  have hr : (16 * r.val + i.val) / 16 = r.val := by omega
  have hi : (16 * r.val + i.val) % 16 = i.val := by omega
  simp [scheduleByte, hr, hi]

theorem schedule_eq_of_scheduleByte {rk rk' : Schedule} (h : ∀ a, scheduleByte rk a = scheduleByte rk' a) :
    rk = rk' := by
  refine Vector.ext fun r hr => Block.eq_of_byte fun i => ?_
  have := h ⟨16 * r + i.val, by omega⟩
  rwa [scheduleByte_roundKey rk ⟨r, hr⟩, scheduleByte_roundKey rk' ⟨r, hr⟩] at this

/-- The bytes of a list of blocks from a multiple of 16 on are those of its later blocks (R47). -/
theorem drop_flatMap_toList (r : Nat) (l : List Block) :
    (l.flatMap Block.toList).drop (16 * r) = (l.drop r).flatMap Block.toList := by
  induction r generalizing l with
  | zero => rfl
  | succ r ih =>
    cases l with
    | nil => simp
    | cons x l =>
      have hlen : 16 * (r + 1) = x.toList.length + 16 * r := by simp; omega
      rw [List.flatMap_cons, List.drop_succ_cons, ← ih l, hlen, List.drop_length_add_append]

/-- A read that stays within round key `r` gives bytes of that round key (R41, R48). -/
theorem memRead_roundKey (rk : Schedule) (r : Fin 11) (o n : Nat) (h : o + n ≤ 16) :
    memRead rk (16 * r.val + o) n = some ((rk[r].toList.drop o).take n) := by
  have hdrop : (scheduleBytes rk).drop (16 * r.val) =
      rk[r].toList ++ (rk.toList.drop (r.val + 1)).flatMap Block.toList := by
    rw [scheduleBytes, drop_flatMap_toList, List.drop_eq_getElem_cons (by simp), List.flatMap_cons]
    simp
  have hbound : 16 * r.val + o + n ≤ 176 := by omega
  rw [memRead, if_pos hbound, ← List.drop_drop, hdrop, List.drop_append_of_le_length (by simp; omega),
    List.take_append_of_le_length (by simp; omega)]

theorem memRead_eq_none (rk : Schedule) (a n : Nat) : memRead rk a n = none ↔ 176 < a + n := by
  simp [memRead]

theorem memRead_byte (rk : Schedule) (r : Fin 11) (i : Fin 16) :
    memRead rk (16 * r.val + i.val) 1 = some [rk[r].byte i] := by
  rw [memRead_roundKey rk r i 1 (by omega)]
  fin_cases i <;> rfl

theorem memRead_word (rk : Schedule) (r : Fin 11) (j : Fin 4) :
    memRead rk (16 * r.val + 4 * j.val) 4 = some (rk[r].word j).toList := by
  rw [memRead_roundKey rk r (4 * j) 4 (by omega)]
  fin_cases j <;> rfl

/-- Settles O7: each view of 1, 4 or 16 bytes is a read within one round key. -/
theorem scheduleViewsAgree : Obligations.ScheduleViewsAgree :=
  ⟨scheduleByte_roundKey, memRead_byte, memRead_word, fun rk r => memRead_roundKey rk r 0 16 (by simp), memRead_eq_none⟩

/-- The list of the schedule bytes has the schedule byte `a` at address `a` (R47). -/
theorem scheduleBytes_getElem (rk : Schedule) (a : Fin 176) :
    (scheduleBytes rk)[a.val]'(by simp) = scheduleByte rk a := by
  have hread := memRead_byte rk ⟨a.val / 16, by omega⟩ ⟨a.val % 16, by omega⟩
  rw [← scheduleByte_roundKey] at hread
  have ha : 16 * (a.val / 16) + a.val % 16 = a.val := by omega
  have hbound : a.val + 1 ≤ 176 := by omega
  simpa [ha, memRead, hbound, List.take_one_drop_eq_of_lt_length] using hread

theorem memWrite_eq_none (rk : Schedule) (a : Nat) (v : List Byte) :
    memWrite rk a v = none ↔ 176 < a + v.length := by
  simp [memWrite]

/-- What a defined write leaves at every address: the written bytes inside, the old ones outside (R18). -/
theorem scheduleByte_memWrite {rk rk' : Schedule} {a : Nat} {v : List Byte} (h : memWrite rk a v = some rk')
    (x : Fin 176) : scheduleByte rk' x =
      if hx : a ≤ x.val ∧ x.val < a + v.length then v[x.val - a]'(by omega) else scheduleByte rk x := by
  unfold memWrite at h
  split at h
  · rw [← Option.some.inj h, scheduleByte_ofFn]
  · cases h

theorem memRead_memWrite {rk rk' : Schedule} {a : Nat} {v : List Byte} (h : memWrite rk a v = some rk') :
    memRead rk' a v.length = some v := by
  have hbound : a + v.length ≤ 176 := by
    have := (memWrite_eq_none rk a v).not.mp (by simp [h])
    omega
  rw [memRead, if_pos hbound]
  refine congrArg some (List.ext_getElem (by simp; omega) fun j _ hj => ?_)
  rw [List.getElem_take, List.getElem_drop, scheduleBytes_getElem rk' ⟨a + j, by omega⟩, scheduleByte_memWrite h,
    dif_pos ⟨by simp, by simpa using hj⟩]
  simp

/-- A write of all 176 bytes of a schedule leaves that schedule (R100). -/
theorem memWrite_scheduleBytes (rk new : Schedule) : memWrite rk 0 (scheduleBytes new) = some new := by
  obtain ⟨rk', h⟩ := Option.ne_none_iff_exists'.mp ((memWrite_eq_none rk 0 (scheduleBytes new)).not.mpr (by simp))
  refine h.trans (congrArg some (schedule_eq_of_scheduleByte fun x => ?_))
  rw [scheduleByte_memWrite h, dif_pos (by simp)]
  exact scheduleBytes_getElem new x

/-- Settles O8: by what a write leaves at every address. -/
theorem scheduleWriteReadsBack : Obligations.ScheduleWriteReadsBack := by
  refine ⟨fun rk rk' a v h => ⟨memRead_memWrite h, fun x hx => ?_⟩, memWrite_eq_none, fun key s t h => ?_⟩
  · rw [scheduleByte_memWrite h, dif_neg (by omega)]
  · rw [memWrite_scheduleBytes, ← Host.Outcome.next.inj h]; rfl

end Sys2Proof
end

section
/-! Proofs of the family 10_state.md: what one step does to RK, SV, BLK and the handshake, the invariant of the machine,
Reset, reads, the edges of a command in progress, and what two cores that differ in RK only can show. -/

namespace Sys2Proof

/-! ### The command word of a command -/

/-- The slice of the port that carries byte `i` of `pack(X)` is that byte (R16, R44). -/
theorem portByte_packPort (x : Block) (i : Fin 16) : portByte (packPort x) i = x.byte i := by
  refine BitVec.eq_of_getLsbD_eq fun r hr => ?_
  have hbit := packPort_getLsbD x (Fin.rev ⟨i.val / 4, by omega⟩) (Fin.rev ⟨i.val % 4, by omega⟩) r hr
  have hplace : 32 * (4 - (i.val / 4 + 1)) + (8 * (4 - (i.val % 4 + 1)) + r) = 120 - 8 * i.val + r := by omega
  simp only [Fin.rev_rev, Fin.val_rev, hplace] at hbit
  simp [portByte, hr, hbit, Block.byte]

theorem bytesOfPort_packPort (x : Block) : bytesOfPort (packPort x) = x :=
  calc Block.ofFn (portByte (packPort x)) = Block.ofFn x.byte := congrArg _ (funext (portByte_packPort x))
    _ = x := rfl

/-- A command word is made of its two fields (R60). -/
theorem commandWord_fields (cw : CommandWord) : commandWord (commandOp cw) (commandDin cw) = cw :=
  (BitVec.extractLsb'_append_extractLsb'_eq_extractLsb' (x := cw) rfl).trans BitVec.extractLsb'_eq_self

end Sys2Proof

namespace Sys2Proof.Machine

theorem decode_encCode (din : BitVec 128) :
    decode (commandWord 0b10#2 din) = .command (.enc (bytesOfPort din)) := by
  obtain ⟨hop, hdin⟩ := Laws.Encoding.fields_commandWord 0b10#2 din
  simp [decode, hop, hdin]

theorem decode_decCode (din : BitVec 128) :
    decode (commandWord 0b11#2 din) = .command (.dec (bytesOfPort din)) := by
  obtain ⟨hop, hdin⟩ := Laws.Encoding.fields_commandWord 0b11#2 din
  simp [decode, hop, hdin]

theorem decode_encode (i : Instr) : decode (encode i) = .command i := by
  cases i with
  | keyexp key => exact (decode_keyexpCode _).trans (by rw [Instr.operand, bytesOfPort_packPort])
  | enc block => exact (decode_encCode _).trans (by rw [Instr.operand, bytesOfPort_packPort])
  | dec block => exact (decode_decCode _).trans (by rw [Instr.operand, bytesOfPort_packPort])

/-! ### What a command keeps and leaves -/

/-- After any completed command a schedule is present: KEYEXP brings it, a transform had it (R100, R158). -/
theorem exec_next_sv {i : Instr} {s t : State} (h : exec i s = .next t) : t.sv = true := by
  obtain ⟨_, -, rfl⟩ | ⟨_, -, hs, rfl⟩ | ⟨_, -, hs, rfl⟩ := exec_next h
  · rfl
  · exact hs
  · exact hs

/-- No command makes a written `BLK` unwritten (R32). -/
theorem exec_next_written {i : Instr} {s t : State} (h : exec i s = .next t) (hs : s.blk ≠ none) : t.blk ≠ none := by
  obtain ⟨_, -, rfl⟩ | ⟨_, -, -, rfl⟩ | ⟨_, -, -, rfl⟩ := exec_next h
  · exact hs
  · exact Option.some_ne_none _
  · exact Option.some_ne_none _

/-- ENC with a schedule, and DEC with one, write the transform of their block (R115, R135). -/
theorem exec_enc_of_sv {s : State} (hs : s.sv = true) (block : Block) :
    exec (.enc block) s = .next ((s.setBlk (some (cipher block s.rk))).setDone true) := by
  simp [execEnc, hs]

theorem exec_dec_of_sv {s : State} (hs : s.sv = true) (block : Block) :
    exec (.dec block) s = .next ((s.setBlk (some (invCipher block s.rk))).setDone true) := by
  simp [execDec, hs]

theorem exec_keyexp_next {key : Block} {s t : State} (h : exec (.keyexp key) s = .next t) :
    t = ((s.setRk (keyExpansion key)).setSv true).setDone true :=
  (Host.Outcome.next.inj h).symm

theorem exec_transform_next {i : Instr} {s t : State} (hi : needsSchedule i = true) (h : exec i s = .next t) :
    s.sv = true ∧ ∃ b, t = (s.setBlk (some b)).setDone true := by
  obtain ⟨_, rfl, -⟩ | ⟨_, -, hs, ht⟩ | ⟨_, -, hs, ht⟩ := exec_next h
  · cases hi
  · exact ⟨hs, _, ht⟩
  · exact ⟨hs, _, ht⟩

/-- Settles O33: the frame common to all commands, that of KEYEXP, and that of a transform. -/
theorem commandFrame : Obligations.CommandFrame := by
  intro i s t h
  obtain ⟨hphase, -, hhost, hreads, hdraws⟩ := exec_next_frame h
  refine ⟨hphase, hhost, hreads, hdraws, fun key hi => ?_, fun block hi => ?_⟩
  · subst hi
    rw [exec_keyexp_next h]; rfl
  · have hneeds : needsSchedule i = true := by obtain rfl | rfl := hi <;> rfl
    obtain ⟨-, b, rfl⟩ := exec_transform_next hneeds h
    exact ⟨rfl, rfl, fun _ => rfl⟩

/-- The handshake and the host's moves do not bear on what a command writes (R28). -/
theorem exec_of_finish {i : Instr} {s t : State} {moves : List HostMove} (h : finish i (s.setHost moves) = .next t) :
    ∃ u, exec i s = .next u ∧ t.rk = u.rk ∧ t.sv = u.sv ∧ t.blk = u.blk := by
  obtain ⟨_, rfl, rfl⟩ | ⟨_, rfl, hs, rfl⟩ | ⟨_, rfl, hs, rfl⟩ := exec_next h
  · exact ⟨_, rfl, rfl, rfl, rfl⟩
  · exact ⟨_, exec_enc_of_sv (s := s) hs _, rfl, rfl, rfl⟩
  · exact ⟨_, exec_dec_of_sv (s := s) hs _, rfl, rfl, rfl⟩

theorem finish_idle {s : State} (hp : s.phase = .idle) (i : Instr) : finish i s = exec i s :=
  congrArg (exec i) (show s.setPhase .idle = s by rw [← hp]; rfl)

/-! ### The command that the next event completes, case by case -/

theorem completesNext_offer {s : State} {i : Instr} {op : BitVec 2} {din : BitVec 128} {rest : List HostMove}
    (hp : s.phase = .idle) (hh : s.host = .command op din :: rest) (hd : decode (commandWord op din) = .command i) :
    completesNext s = some i := by
  simp [completesNext, commandOf, hp, hh, hd]

theorem completesNext_emptyOffer {s : State} {op : BitVec 2} {din : BitVec 128} {rest : List HostMove}
    (hp : s.phase = .idle) (hh : s.host = .command op din :: rest) (hd : decode (commandWord op din) = .noCommand) :
    completesNext s = none := by
  simp [completesNext, commandOf, hp, hh, hd]

theorem completesNext_idle_silent {s : State} (hp : s.phase = .idle) (hh : s.host = []) : completesNext s = none := by
  simp [completesNext, hp, hh]

theorem completesNext_idle_read {s : State} {u : Bool} {rest : List HostMove} (hp : s.phase = .idle)
    (hh : s.host = .read u :: rest) : completesNext s = none := by
  simp [completesNext, hp, hh]

theorem completesNext_idle_edge {s : State} {p : Pins} {rest : List HostMove} (hp : s.phase = .idle)
    (hh : s.host = .edge p :: rest) : completesNext s = none := by
  simp [completesNext, hp, hh]

theorem completesNext_unreset {s : State} (hp : s.phase = .unreset) : completesNext s = none := by
  simp [completesNext, hp]

theorem completesNext_busy_silent {s : State} {i : Instr} {left : Nat} (hp : s.phase = .busy i left)
    (hh : s.host = []) : completesNext s = some i := by
  simp [completesNext, hp, hh]

theorem completesNext_busy_command {s : State} {i : Instr} {left : Nat} {op : BitVec 2} {din : BitVec 128}
    {rest : List HostMove} (hp : s.phase = .busy i left) (hh : s.host = .command op din :: rest) :
    completesNext s = some i := by
  simp [completesNext, hp, hh]

theorem completesNext_busy_read {s : State} {i : Instr} {left : Nat} {u : Bool} {rest : List HostMove}
    (hp : s.phase = .busy i left) (hh : s.host = .read u :: rest) : completesNext s = some i := by
  simp [completesNext, hp, hh]

theorem completesNext_busy_edge {s : State} {i : Instr} {left : Nat} {p : Pins} {rest : List HostMove}
    (hp : s.phase = .busy i left) (hh : s.host = .edge p :: rest) (hr : p.rst = false) :
    completesNext s = if left ≤ 1 then some i else none := by
  simp [completesNext, hp, hh, hr]

/-! ### What one step does to the core, said once -/

/-- `RK`, `SV` and `BLK` are the same in both states. -/
def SameCore (s t : State) : Prop := t.rk = s.rk ∧ t.sv = s.sv ∧ t.blk = s.blk

/-- What a step from `s` to `t` can be for the core: a Reset, a loss of power, the completion of a command, or one of
three events that write nothing. -/
inductive StepEffect (s t : State) : Prop where
  | reset (rest : List HostMove) (next : resetsNext s = true) (eq : t = (s.setHost rest).resetEvent)
  | power (rest : List HostMove) (next : losesPowerNext s = true) (eq : t = (s.setHost rest).powerEvent)
  | completes (i : Instr) (rest : List HostMove) (live : s.phase ≠ .unreset) (next : completesNext s = some i)
      (runs : finish i (s.setHost rest) = .next t)
  /-- No command is in progress and none is accepted: a quiet cycle, a read, the empty code. -/
  | rests (next : completesNext s = none) (same : SameCore s t) (phase : t.phase = s.phase)
      (free : ∀ i left, s.phase ≠ .busy i left)
  | accepts (i : Instr) (next : completesNext s = none) (same : SameCore s t) (live : s.phase ≠ .unreset)
      (schedule : needsSchedule i = true → s.sv = true) (phase : t.phase = .busy i (latency i)) (done : t.done = false)
  | countsDown (i : Instr) (left : Nat) (next : completesNext s = none) (same : SameCore s t)
      (before : s.phase = .busy i left) (more : 1 < left) (phase : t.phase = .busy i (left - 1)) (done : t.done = false)

theorem StepEffect.idle_rests {s t : State} (hp : s.phase = .idle) (next : completesNext s = none)
    (same : SameCore s t) (phase : t.phase = s.phase) : StepEffect s t :=
  .rests next same phase fun _ _ hb => by simp [hp] at hb

theorem StepEffect.busy_completes {s t : State} {i : Instr} {left : Nat} (hp : s.phase = .busy i left)
    (next : completesNext s = some i) (rest : List HostMove) (runs : finish i (s.setHost rest) = .next t) :
    StepEffect s t :=
  .completes i rest (by simp [hp]) next runs

theorem stepEffect_silent {s t : State} (hh : s.host = []) (h : silentHost s = .next t) : StepEffect s t := by
  obtain ⟨hp, rfl⟩ | ⟨hp, rfl⟩ | ⟨i, left, hp, hf⟩ := silentHost_next h
  · exact .idle_rests hp (completesNext_idle_silent hp hh) ⟨rfl, rfl, rfl⟩ rfl
  · exact .rests (completesNext_unreset hp) ⟨rfl, rfl, rfl⟩ rfl fun _ _ hb => by simp [hp] at hb
  · exact .busy_completes hp (completesNext_busy_silent hp hh) s.host hf

theorem stepEffect_command {s t : State} {op : BitVec 2} {din : BitVec 128} {rest : List HostMove}
    (hh : s.host = .command op din :: rest) (h : whenReady s (runCommandWord op din (s.setHost rest)) = .next t) :
    StepEffect s t := by
  obtain ⟨hp, hrun⟩ | ⟨i, left, hp, hf⟩ := whenReady_next h
  · obtain ⟨i, hd, he⟩ | ⟨hd, rfl⟩ := runCommandWord_next hrun
    · exact .completes i rest (by simp [hp]) (completesNext_offer hp hh hd)
        ((finish_idle (s := s.setHost rest) hp i).trans he)
    · exact .idle_rests hp (completesNext_emptyOffer hp hh hd) ⟨rfl, rfl, rfl⟩ rfl
  · exact .busy_completes hp (completesNext_busy_command hp hh) s.host hf

theorem stepEffect_read {s t : State} {u : Bool} {rest : List HostMove} (hh : s.host = .read u :: rest)
    (h : whenReady s (readPorts u (s.setHost rest)) = .next t) : StepEffect s t := by
  obtain ⟨hp, hread⟩ | ⟨i, left, hp, hf⟩ := whenReady_next h
  · have hnone := completesNext_idle_read hp hh
    obtain ⟨-, rfl⟩ | ⟨-, b, -, rfl⟩ := readPorts_next hread
    · exact .idle_rests hp hnone ⟨rfl, rfl, rfl⟩ rfl
    · exact .idle_rests hp hnone ⟨rfl, rfl, rfl⟩ rfl
  · exact .busy_completes hp (completesNext_busy_read hp hh) s.host hf

theorem stepEffect_edge {s t : State} {p : Pins} {rest : List HostMove} (hh : s.host = .edge p :: rest)
    (h : clockEdge p (s.setHost rest) = .next t) : StepEffect s t := by
  obtain ⟨hr, rfl⟩ | ⟨-, hp, rfl⟩ | ⟨-, hp, i, -, -, ha⟩ | ⟨hr, i, left, hp, hl, rfl⟩ | ⟨hr, i, left, hp, hl, hf⟩ :=
    clockEdge_next h
  · exact .reset rest (by simp [resetsNext, hh, HostMove.resets, hr]) rfl
  · exact .idle_rests hp (completesNext_idle_edge hp hh) ⟨rfl, rfl, rfl⟩ rfl
  · obtain ⟨hsv, rfl⟩ := accept_next ha
    have hlive : s.phase ≠ .unreset := by rw [show s.phase = .idle from hp]; simp
    exact .accepts i (completesNext_idle_edge hp hh) ⟨rfl, rfl, rfl⟩ hlive hsv rfl rfl
  · have hmore : ¬ left ≤ 1 := by omega
    have hnone := (completesNext_busy_edge (s := s) hp hh hr).trans (if_neg hmore)
    exact .countsDown i left hnone ⟨rfl, rfl, rfl⟩ hp hl rfl rfl
  · exact .busy_completes hp ((completesNext_busy_edge (s := s) hp hh hr).trans (if_pos hl)) rest hf

theorem stepEffect_of_step {s t : State} (h : step s = .next t) : StepEffect s t := by
  obtain ⟨hh, h⟩ | ⟨rest, hh, rfl⟩ | ⟨rest, hh, rfl⟩ | ⟨op, din, rest, hh, h⟩ | ⟨u, rest, hh, h⟩ | ⟨p, rest, hh, h⟩ :=
    step_next h
  · exact stepEffect_silent hh h
  · exact .reset rest (by simp [resetsNext, hh, HostMove.resets]) rfl
  · exact .power rest (by simp [losesPowerNext, hh]) rfl
  · exact stepEffect_command hh h
  · exact stepEffect_read hh h
  · exact stepEffect_edge hh h

/-- An event that is no Reset, no loss of power and no completion writes none of `RK`, `SV`, `BLK` (R20). -/
theorem StepEffect.sameCore {s t : State} (h : StepEffect s t) (hr : resetsNext s = false)
    (hp : losesPowerNext s = false) (hc : completesNext s = none) : SameCore s t := by
  cases h with
  | reset rest next => simp [hr] at next
  | power rest next => simp [hp] at next
  | completes i rest live next => simp [hc] at next
  | rests next same => exact same
  | accepts i next same => exact same
  | countsDown i left next same => exact same

/-- An event that completes a command is the completion of that command, whatever else it might be. -/
theorem StepEffect.finish_of_completes {s t : State} {i : Instr} (h : StepEffect s t) (hr : resetsNext s = false)
    (hp : losesPowerNext s = false) (hc : completesNext s = some i) :
    ∃ rest, finish i (s.setHost rest) = .next t := by
  cases h with
  | reset rest next => simp [hr] at next
  | power rest next => simp [hp] at next
  | completes j rest live next runs => exact ⟨rest, Option.some.inj (hc.symm.trans next) ▸ runs⟩
  | rests next => simp [hc] at next
  | accepts j next => simp [hc] at next
  | countsDown j left next => simp [hc] at next

/-- Settles O44: the two ways in which a step that is no Reset and no loss of power treats the core. -/
theorem onlyCommandsWrite : Obligations.OnlyCommandsWrite := by
  intro s t h hp hr
  refine ⟨(stepEffect_of_step h).sameCore hr hp, fun i hc => ?_⟩
  obtain ⟨rest, hf⟩ := (stepEffect_of_step h).finish_of_completes hr hp hc
  exact exec_of_finish hf

/-- Settles O43: a step that is no Reset keeps or completes, and neither clears `SV` or `BLK`. -/
theorem onlyResetClears : Obligations.OnlyResetClears := by
  intro s t h hp
  cases hr : resetsNext s with
  | true => exact ⟨fun _ _ => rfl, fun _ _ => rfl⟩
  | false =>
    cases hc : completesNext s with
    | none =>
      obtain ⟨-, hsv, hblk⟩ := (stepEffect_of_step h).sameCore hr hp hc
      exact ⟨fun hs ht => by simp [hsv, hs] at ht, fun hs ht => absurd (hblk ▸ ht) hs⟩
    | some i =>
      obtain ⟨rest, hf⟩ := (stepEffect_of_step h).finish_of_completes hr hp hc
      exact ⟨fun _ ht => by simp [exec_next_sv hf] at ht, fun hs ht => absurd ht (exec_next_written hf hs)⟩

/-! ### The invariant of the machine -/

/-- Round key 0 of an expanded key is the key (R101). -/
theorem keyExpansion_roundKey_zero (key : Block) : (keyExpansion key)[0] = key := by
  simp [keyExpansion, expandedKey]

/-- A ready core without a schedule and without a result has the invariant (R33). -/
theorem liveInv_of_cleared {s : State} (hsv : s.sv = false) (hblk : s.blk = none) (hp : s.phase = .idle) :
    LiveInv s where
  schedule h := by simp [hsv] at h
  result h := by simp [hblk] at h
  inProgress _ _ h := by simp [hp] at h

/-- The part of the invariant that speaks of `RK`, `SV` and `BLK` goes with them. -/
theorem LiveInv.of_sameCore {s t : State} (hs : LiveInv s) (same : SameCore s t)
    (inProgress : ∀ i left, t.phase = .busy i left →
      1 ≤ left ∧ left ≤ latency i ∧ (needsSchedule i = true → t.sv = true) ∧ t.done = false) : LiveInv t := by
  obtain ⟨hrk, hsv, hblk⟩ := same
  exact ⟨by rw [hrk, hsv]; exact hs.schedule, by rw [hblk, hsv]; exact hs.result, inProgress⟩

/-- A completed command leaves a ready core with the expansion of a key in `RK` (R22, R100). -/
theorem LiveInv.of_finish {i : Instr} {s t : State} (hs : LiveInv s) (h : finish i s = .next t) : LiveInv t where
  schedule _ := by
    obtain ⟨key, -, rfl⟩ | ⟨_, -, hsv, rfl⟩ | ⟨_, -, hsv, rfl⟩ := exec_next h
    · exact congrArg keyExpansion (keyExpansion_roundKey_zero key).symm
    · exact hs.schedule hsv
    · exact hs.schedule hsv
  result _ := exec_next_sv h
  inProgress _ _ hb := by
    obtain ⟨hphase, -⟩ := exec_next_frame h
    simp [hphase] at hb

/-- The invariant speaks of no host move. -/
theorem LiveInv.setHost {s : State} (hs : LiveInv s) (moves : List HostMove) : LiveInv (s.setHost moves) :=
  ⟨hs.schedule, hs.result, hs.inProgress⟩

theorem StepEffect.keeps_inv {s t : State} (hinv : Inv s) (h : StepEffect s t) : Inv t := by
  intro hlive
  cases h with
  | reset rest next eq => subst eq; exact liveInv_of_cleared rfl rfl rfl
  | power rest next eq => subst eq; exact absurd rfl hlive
  | completes i rest live next runs => exact ((hinv live).setHost rest).of_finish runs
  | rests next same phase free =>
    exact (hinv (phase ▸ hlive)).of_sameCore same fun i left hb => absurd (phase ▸ hb) (free i left)
  | accepts i next same live schedule phase done =>
    refine (hinv live).of_sameCore same fun j left hb => ?_
    obtain ⟨rfl, rfl⟩ := Phase.busy.inj (phase.symm.trans hb)
    obtain ⟨-, hsv, -⟩ := same
    exact ⟨latency_pos i, le_rfl, hsv ▸ schedule, done⟩
  | countsDown i left next same before more phase done =>
    have hs : LiveInv s := hinv (by simp [before])
    refine hs.of_sameCore same fun j left' hb => ?_
    obtain ⟨rfl, rfl⟩ := Phase.busy.inj (phase.symm.trans hb)
    obtain ⟨-, hle, schedule, -⟩ := hs.inProgress i left before
    obtain ⟨-, hsv, -⟩ := same
    exact ⟨by omega, by omega, hsv ▸ schedule, done⟩

/-- Settles O53: each of the six effects a step can have keeps the invariant. -/
theorem stepKeepsInvariant : Obligations.StepKeepsInvariant :=
  fun _ _ hinv h => (stepEffect_of_step h).keeps_inv hinv

/-- Settles O54: the reset state is a cleared one. -/
theorem resetHasInvariant : Obligations.ResetHasInvariant :=
  ⟨fun _ => liveInv_of_cleared rfl rfl rfl, by simp [State.reset]⟩

/-! ### Reset -/

/-- Settles O41: the reset state as it is written down. -/
theorem resetStateValues : Obligations.ResetStateValues := ⟨rfl, rfl, rfl⟩

theorem step_resets {s : State} {m : HostMove} {rest : List HostMove} (hh : s.host = m :: rest)
    (hm : m.resets = true) : step s = .next (s.setHost rest).resetEvent := by
  cases m with
  | reset => exact step_reset hh
  | edge p => exact (step_edge hh).trans (clockEdge_reset hm _)
  | power => cases hm
  | command op din => cases hm
  | read u => cases hm

/-- Settles O42: a Reset by either move is the Reset event. -/
theorem resetWinsAtAnyTime : Obligations.ResetWinsAtAnyTime := by
  refine ⟨fun s m rest hh hm => ⟨_, step_resets hh hm, rfl, rfl, rfl, rfl, rfl, rfl, rfl⟩, fun s rest hh => ?_⟩
  exact ⟨_, _, step_reset hh, step_reset (rest := rest) rfl, rfl, rfl, rfl, rfl⟩

/-! ### Transactions of a ready core -/

/-- A command word on a ready core is run as what it decodes to (R28). -/
theorem step_offer {s : State} {op : BitVec 2} {din : BitVec 128} {rest : List HostMove} {i : Instr}
    (hp : s.phase = .idle) (hh : s.host = .command op din :: rest) (hd : decode (commandWord op din) = .command i) :
    step s = exec i (s.setHost rest) := by
  rw [step_command hh, whenReady_idle hp, runCommandWord_command hd]

theorem step_emptyOffer {s : State} {op : BitVec 2} {din : BitVec 128} {rest : List HostMove}
    (hp : s.phase = .idle) (hh : s.host = .command op din :: rest) (hd : decode (commandWord op din) = .noCommand) :
    step s = .next ((s.setHost rest).setDone false) := by
  rw [step_command hh, whenReady_idle hp, runCommandWord_noCommand hd]

theorem step_idle_read {s : State} {u : Bool} {rest : List HostMove} (hp : s.phase = .idle)
    (hh : s.host = .read u :: rest) : step s = readPorts u (s.setHost rest) := by
  rw [step_read hh, whenReady_idle hp]

theorem decode_of_decodeTableWord {nbits w : Nat} {i : Instr} (h : decodeTableWord nbits w = some i) :
    decode (tableWord nbits w) = .command i := by
  unfold decodeTableWord at h
  split at h
  · rename_i j hd; rw [hd, Option.some.inj h]
  · cases h

/-- Settles O45: the decoded word of the move, of the encoded command, and of the table. -/
theorem stepRunsOfferedCommand : Obligations.StepRunsOfferedCommand := by
  refine ⟨fun s op din rest i hp hh hd => step_offer hp hh hd, fun s rest i hp hh => ?_, fun s nbits w i h => ?_⟩
  · exact step_offer hp hh (by rw [commandWord_fields, decode_encode])
  · have hd : decode (commandWord (commandOp (tableWord nbits w)) (commandDin (tableWord nbits w))) = .command i := by
      rw [commandWord_fields, decode_of_decodeTableWord h]
    exact step_offer (s := s.withFetchWord nbits w) rfl rfl hd

/-- Settles O34: the event of each row of R32, in the order of the table. -/
theorem effectOfEachEvent : Obligations.EffectOfEachEvent := by
  refine ⟨fun s rest hh => ?reset, fun s rest k hp hh => ?keyexp, fun s rest b hp hs hh => ?enc,
    fun s rest b hp hs hh => ?dec, fun s rest op b hp hs hop hh => ?noSchedule, fun s rest d hp hh => ?empty,
    fun s rest u hp hu hh => ?read⟩
  case reset => exact ⟨_, step_reset hh, rfl, rfl⟩
  case keyexp => exact ⟨_, step_offer hp hh (decode_keyexpCode k), rfl, rfl, rfl⟩
  case enc =>
    exact ⟨_, (step_offer hp hh (decode_encCode b)).trans (exec_enc_of_sv (s := s.setHost rest) hs _), rfl, hs, rfl⟩
  case dec =>
    exact ⟨_, (step_offer hp hh (decode_decCode b)).trans (exec_dec_of_sv (s := s.setHost rest) hs _), rfl, hs, rfl⟩
  case noSchedule =>
    obtain rfl | rfl := hop
    · exact (step_offer hp hh (decode_encCode b)).trans (exec_without_schedule rfl hs)
    · exact (step_offer hp hh (decode_decCode b)).trans (exec_without_schedule rfl hs)
  case empty => exact ⟨_, step_emptyOffer hp hh (decode_emptyCode d), rfl, rfl, rfl⟩
  case read =>
    have hwritten : u = true → (s.setHost rest).blk.isSome = true := fun h => Option.isSome_iff_ne_none.mpr (hu h)
    obtain ⟨v, hv⟩ := readPorts_of_written hwritten
    exact ⟨_, (step_idle_read hp hh).trans hv, rfl, rfl, rfl⟩

theorem readPorts_written {s : State} {b : Block} (hb : s.blk = some b) :
    readPorts true s = .next (s.addRead ⟨some (packPort b), s.sv⟩) := by
  simp [readPorts, hb]

theorem readPorts_unwritten {s : State} (hb : s.blk = none) : readPorts true s = .fault .readUnwritten := by
  simp [readPorts, hb]

/-- Settles O46: a read of a ready core, by its use of `dout`, and a read that waits. -/
theorem readReturnsPorts : Obligations.ReadReturnsPorts := by
  refine ⟨fun s rest b hp hb hh => ?written, fun s rest hp hh => ?svOnly, fun s rest hp hb hh => ?unwritten,
    fun s rest i left u hp hh => ?busy⟩
  case written => exact (step_idle_read hp hh).trans (readPorts_written (s := s.setHost rest) hb)
  case svOnly => exact step_idle_read hp hh
  case unwritten => exact (step_idle_read hp hh).trans (readPorts_unwritten (s := s.setHost rest) hb)
  case busy => exact (step_read hh).trans (whenReady_busy hp _)

/-! ### The edges of a command in progress -/

/-- Settles O48: the last edge completes and an earlier one counts down, by the edges left alone. -/
theorem busyCoreIgnoresPins : Obligations.BusyCoreIgnoresPins := by
  intro s i left p q hp hr hq
  by_cases hl : left ≤ 1
  · exact ⟨(clockEdge_lastEdge hp hr hl).trans (clockEdge_lastEdge hp hq hl).symm, fun hmore => by omega⟩
  · have hmore : 1 < left := by omega
    have hdown := clockEdge_countDown hp hr hmore
    exact ⟨hdown.trans (clockEdge_countDown hp hq hmore).symm, fun _ => ⟨_, hdown, rfl, rfl, rfl, rfl⟩⟩

/-- An edge on an idle core ends the pulse of `done`: it resets, is quiet, or accepts (R28). -/
theorem clockEdge_idle_done {s t : State} {p : Pins} (hp : s.phase = .idle) (h : clockEdge p s = .next t) :
    t.done = false := by
  obtain ⟨-, rfl⟩ | ⟨-, -, rfl⟩ | ⟨-, -, i, -, -, ha⟩ | ⟨-, i, left, hb, -⟩ | ⟨-, i, left, hb, -⟩ := clockEdge_next h
  · rfl
  · rfl
  · obtain ⟨-, rfl⟩ := accept_next ha; rfl
  · simp [hp] at hb
  · simp [hp] at hb

/-- Settles O49: the last edge of a command pulses `done` with `ready`, and no other edge does. -/
theorem doneIsOneCycle : Obligations.DoneIsOneCycle := by
  refine ⟨fun s t p => clockEdge_idle_done, fun s t p i left hp hr h => ?_⟩
  by_cases hl : left ≤ 1
  · obtain ⟨hphase, hdone, -⟩ := exec_next_frame ((clockEdge_lastEdge hp hr hl).symm.trans h)
    exact ⟨iff_of_true hdone hl, iff_of_true (t.ready_iff.mpr hphase) hl⟩
  · have ht := Host.Outcome.next.inj ((clockEdge_countDown hp hr (by omega)).symm.trans h)
    subst ht
    exact ⟨iff_of_false (by simp) hl, iff_of_false (by simp [State.ready_iff]) hl⟩

/-! ### Two cores that differ in RK only -/

/-- The operation `f` ends the same but for `RK` on `s` and on every core that differs from it in `RK` only. -/
def HidesRk (f : State → Host.Outcome State Fault Refusal) (s : State) : Prop :=
  ∀ rk', SameButRk (f s) (f (s.setRk rk'))

theorem exec_hidesRk {i : Instr} (hi : needsSchedule i = false) (s : State) : HidesRk (exec i) s := by
  cases i with
  | keyexp key => exact fun _ => rfl
  | enc block => cases hi
  | dec block => cases hi

theorem finish_hidesRk {i : Instr} (hi : needsSchedule i = false) (s : State) : HidesRk (finish i) s :=
  exec_hidesRk hi (s.setPhase .idle)

theorem readPorts_hidesRk (u : Bool) (s : State) : HidesRk (readPorts u) s := by
  intro rk'
  cases u with
  | false => exact rfl
  | true =>
    cases hb : s.blk with
    | none => rw [readPorts_unwritten hb, readPorts_unwritten (s := s.setRk rk') hb]; rfl
    | some b => rw [readPorts_written hb, readPorts_written (s := s.setRk rk') hb]; rfl

theorem accept_hidesRk (i : Instr) (s : State) : HidesRk (accept i) s := by
  intro rk'
  by_cases h : needsSchedule i = true → s.sv = true
  · rw [accept_of_schedule h, accept_of_schedule (s := s.setRk rk') h]; rfl
  · obtain ⟨hi, hs⟩ : needsSchedule i = true ∧ s.sv = false := by simpa using h
    rw [accept_without_schedule hi hs, accept_without_schedule (s := s.setRk rk') hi hs]; rfl

theorem runCommandWord_hidesRk {op : BitVec 2} {din : BitVec 128}
    (h : ∀ i, decode (commandWord op din) = .command i → needsSchedule i = false) (s : State) :
    HidesRk (runCommandWord op din) s := by
  intro rk'
  cases hd : decode (commandWord op din) with
  | command i => rw [runCommandWord_command hd, runCommandWord_command hd]; exact exec_hidesRk (h i hd) s rk'
  | noCommand => rw [runCommandWord_noCommand hd, runCommandWord_noCommand hd]; rfl

theorem clockEdge_idle_hidesRk {p : Pins} {s : State} (hp : s.phase = .idle) (hr : p.rst = false) :
    HidesRk (clockEdge p) s := by
  intro rk'
  cases hs : p.start with
  | false => rw [clockEdge_noOffer hp hr hs, clockEdge_noOffer (s := s.setRk rk') hp hr hs]; rfl
  | true =>
    cases hd : decode (commandWord p.op p.din) with
    | command i =>
      rw [clockEdge_offer hp hr hs hd, clockEdge_offer (s := s.setRk rk') hp hr hs hd]
      exact accept_hidesRk i s rk'
    | noCommand =>
      rw [clockEdge_emptyOffer hp hr hs hd, clockEdge_emptyOffer (s := s.setRk rk') hp hr hs hd]; rfl

theorem clockEdge_hidesRk {p : Pins} {s : State}
    (h : p.rst = false → ∀ i left, s.phase = .busy i left → left ≤ 1 → needsSchedule i = false) :
    HidesRk (clockEdge p) s := by
  cases hr : p.rst with
  | true => intro rk'; rw [clockEdge_reset hr, clockEdge_reset hr]; rfl
  | false =>
    cases hp : s.phase with
    | idle => exact clockEdge_idle_hidesRk hp hr
    | busy i left =>
      intro rk'
      by_cases hl : left ≤ 1
      · rw [clockEdge_lastEdge hp hr hl, clockEdge_lastEdge (s := s.setRk rk') hp hr hl]
        exact finish_hidesRk (h hr i left hp hl) s rk'
      · have hmore : 1 < left := by omega
        rw [clockEdge_countDown hp hr hmore, clockEdge_countDown (s := s.setRk rk') hp hr hmore]; rfl
    | unreset => intro rk'; rw [clockEdge_unreset hp hr, clockEdge_unreset (s := s.setRk rk') hp hr]; rfl

/-- A move that waits for `ready` shows nothing of `RK` if neither the move nor the command in progress does. -/
theorem whenReady_hidesRk {f : State → Host.Outcome State Fault Refusal} {s : State}
    (hbusy : ∀ i left, s.phase = .busy i left → needsSchedule i = false) (hidle : s.phase = .idle → HidesRk f s) :
    HidesRk (fun s => whenReady s (f s)) s := by
  intro rk'
  cases hp : s.phase with
  | idle => simpa [whenReady_idle, hp] using hidle hp rk'
  | busy i left =>
    simpa [whenReady_busy hp, whenReady_busy (s := s.setRk rk') hp] using finish_hidesRk (hbusy i left hp) s rk'
  | unreset => simp [whenReady_unreset, hp, SameButRk]

theorem silentHost_hidesRk {s : State} (hbusy : ∀ i left, s.phase = .busy i left → needsSchedule i = false) :
    HidesRk silentHost s := by
  intro rk'
  cases hp : s.phase with
  | idle => rw [silentHost_idle hp, silentHost_idle (s := s.setRk rk') hp]; rfl
  | busy i left =>
    rw [silentHost_busy hp, silentHost_busy (s := s.setRk rk') hp]; exact finish_hidesRk (hbusy i left hp) s rk'
  | unreset => rw [silentHost_unreset hp, silentHost_unreset (s := s.setRk rk') hp]; rfl

/-- An event that completes no transform does the same on both cores but for `RK` (R36, R53). -/
theorem step_hidesRk {s : State} (h : ∀ i, completesNext s = some i → needsSchedule i = false) : HidesRk step s := by
  intro rk'
  cases hh : s.host with
  | nil =>
    rw [step_silent hh, step_silent (s := s.setRk rk') hh]
    exact silentHost_hidesRk (fun i _ hp => h i (completesNext_busy_silent hp hh)) rk'
  | cons m rest =>
    cases m with
    | reset => rw [step_reset hh, step_reset (s := s.setRk rk') hh]; rfl
    | power => rw [step_power hh, step_power (s := s.setRk rk') hh]; rfl
    | command op din =>
      rw [step_command hh, step_command (s := s.setRk rk') hh]
      exact whenReady_hidesRk (f := fun s => runCommandWord op din (s.setHost rest))
        (fun i _ hp => h i (completesNext_busy_command hp hh))
        (fun hp => runCommandWord_hidesRk (fun i hd => h i (completesNext_offer hp hh hd)) (s.setHost rest)) rk'
    | read u =>
      rw [step_read hh, step_read (s := s.setRk rk') hh]
      exact whenReady_hidesRk (f := fun s => readPorts u (s.setHost rest))
        (fun i _ hp => h i (completesNext_busy_read hp hh)) (fun _ => readPorts_hidesRk u (s.setHost rest)) rk'
    | edge p =>
      rw [step_edge hh, step_edge (s := s.setRk rk') hh]
      refine clockEdge_hidesRk (s := s.setHost rest) (fun hr i left hp hl => h i ?_) rk'
      exact (completesNext_busy_edge (s := s) hp hh hr).trans (if_pos hl)

/-- Settles O57: a step shows `RK` through a transform only, and no output port shows what a KEYEXP wrote. -/
theorem scheduleIsHidden : Obligations.ScheduleIsHidden := by
  refine ⟨fun s rk' h => step_hidesRk h rk', fun key key' s t t' h h' => ?_⟩
  rw [exec_keyexp_next h, exec_keyexp_next h']; rfl

end Sys2Proof.Machine
end

section
/-! Proofs of the family 20_memory.md: the bytes of the ports, the layout of the State Matrix, and the schedule that a
later KEYEXP leaves. -/

namespace Sys2Proof

/-! ### The bytes of the ports -/

/-- Byte `i` of the sequence built from `f` is `f i` (R15). -/
theorem Block.byte_ofFn (f : Fin 16 → Byte) (i : Fin 16) : (Block.ofFn f).byte i = f i := by
  fin_cases i <;> rfl

/-- Two port values are equal when their 16 bytes are: bit `k` stands in byte `15 - k / 8` (R44). -/
theorem eq_of_portByte {v w : BitVec 128} (h : ∀ i, portByte v i = portByte w i) : v = w := by
  refine BitVec.eq_of_getLsbD_eq fun k hk => ?_
  have hbit := congrArg (BitVec.getLsbD · (k % 8)) (h ⟨15 - k / 8, by omega⟩)
  have hplace : 120 - 8 * (15 - k / 8) + k % 8 = k := by omega
  have hin : k % 8 < 8 := by omega
  simpa [portByte, hplace, hin] using hbit

theorem packPort_bytesOfPort (v : BitVec 128) : packPort (bytesOfPort v) = v :=
  eq_of_portByte fun i => (portByte_packPort _ i).trans (Block.byte_ofFn _ i)

end Sys2Proof

namespace Sys2Proof.Machine

/-- A ready core shows its ports, `dout` once `BLK` is written (R26, R30). -/
theorem outputs_idle {s : State} (hp : s.phase = .idle) :
    s.outputs = some ⟨true, s.done, s.blk.map packPort, some s.sv⟩ := by
  simp [State.outputs, hp]

/-- Settles O1: the slices of the port on `din` and on `dout`, and the two inverses. -/
theorem portBytesMostSignificantFirst : Obligations.PortBytesMostSignificantFirst := by
  refine ⟨fun v i => Block.byte_ofFn _ i, fun s b hp hb => ?dout, packPort_bytesOfPort, bytesOfPort_packPort⟩
  case dout =>
    have hdout : s.blk.map packPort = some (packPort b) := congrArg _ hb
    exact ⟨_, _, outputs_idle hp, hdout, fun i => (portByte_packPort b i).symm⟩

end Sys2Proof.Machine

namespace Sys2Proof

/-! ### The State Matrix -/

/-- Byte `i` of a block is cell `[i mod 4][i div 4]` of the State Matrix (R45). -/
theorem Block.byte_eq_cell (b : Block) (i : Fin 16) :
    b.byte i = b.cell ⟨i.val % 4, by omega⟩ ⟨i.val / 4, by omega⟩ := rfl

/-- Cell `[r][c]` is byte `r + 4*c` (R45). -/
theorem Block.cell_eq_byte (b : Block) (r c : Fin 4) : b.cell r c = b.byte ⟨r.val + 4 * c.val, by omega⟩ := by
  have hrow : (r.val + 4 * c.val) % 4 = r.val := by omega
  have hcol : (r.val + 4 * c.val) / 4 = c.val := by omega
  simp only [Block.byte_eq_cell, hrow, hcol]

/-- Settles O2: a cell as a byte and back; a column is the four cells of its rows. -/
theorem blockIsColumnMajor : Obligations.BlockIsColumnMajor := by
  refine ⟨Block.cell_eq_byte, fun b i => (b.byte_eq_cell i).symm, fun b c j => ?_⟩
  calc (b.word c).byte j = b.byte ⟨j.val + 4 * c.val, by omega⟩ := b.cell_eq_byte j c
    _ = b.byte ⟨4 * c.val + j.val, by omega⟩ := congrArg b.byte (Fin.ext (Nat.add_comm ..))

end Sys2Proof

namespace Sys2Proof.Machine

/-! ### A later KEYEXP -/

/-- The move that offers a command to a ready core runs it (R28). -/
theorem step_ofInstr {s : State} {i : Instr} {rest : List HostMove} (hp : s.phase = .idle)
    (hh : s.host = HostMove.ofInstr i :: rest) : step s = exec i (s.setHost rest) :=
  step_offer hp hh (by rw [commandWord_fields, decode_encode])

/-- A run whose next event is a KEYEXP goes on with the schedule of its key (R100). -/
theorem runSteps_keyexp {s : State} {key : Block} {rest : List HostMove} (n : Nat) (hp : s.phase = .idle)
    (hh : s.host = HostMove.ofInstr (.keyexp key) :: rest) :
    runSteps (n + 1) s = runSteps n ((((s.setHost rest).setRk (keyExpansion key)).setSv true).setDone true) :=
  runSteps_next (step_ofInstr hp hh) n

/-- KEYEXP with the key of a schedule that is present writes what is there (R110). -/
theorem exec_keyexp_same_key {key : Block} {s t : State} (hsv : s.sv = true) (hrk : s.rk = keyExpansion key)
    (h : exec (.keyexp key) s = .next t) : t = s.setDone true := by
  rw [exec_keyexp_next h]
  exact State.eq_of_fields hrk.symm hsv.symm rfl rfl rfl rfl rfl rfl

/-- Settles O37: the schedule does not depend on the start state, the same key rewrites it as it was, and in three
transactions the ENC finds the schedule of the second KEYEXP (R54, R109, R110, R178). -/
theorem latestKeyWins : Obligations.LatestKeyWins := by
  refine ⟨fun key s s' t t' h h' => ?_, fun key s t hsv hrk h => exec_keyexp_same_key hsv hrk h,
    fun keyA keyB block s rest hp hh => ?_⟩
  · rw [exec_keyexp_next h, exec_keyexp_next h']; rfl
  · have hrun := calc runSteps 3 s
      _ = runSteps 2 _ := runSteps_keyexp 2 hp hh
      _ = runSteps 1 _ := runSteps_keyexp 1 hp rfl
      _ = step _ := runSteps_one _
      _ = exec (.enc block) _ := step_ofInstr hp rfl
      _ = .next _ := exec_enc_of_sv rfl block
    exact ⟨_, hrun, rfl, rfl⟩

end Sys2Proof.Machine
end

section
/-! Proofs of the family 30_encoding.md: the decoder as the inverse of the encoder on the words with a code, the rows
of the opcode table, the empty code, DECK, and the text of commands. -/

namespace Sys2Proof

open Machine

/-! ### The command words of the commands -/

theorem encoding_statement (i : Instr) : Laws.Encoding.Statement i := by
  cases i with
  | keyexp key => exact Laws.Encoding.keyexp key
  | enc block => exact Laws.Encoding.enc block
  | dec block => exact Laws.Encoding.dec block

theorem commandOp_encode (i : Instr) : commandOp (encode i) = i.opcode := by
  obtain ⟨-, hop, -, -⟩ := encoding_statement i
  exact hop

theorem commandOp_encode_ne_empty (i : Instr) : commandOp (encode i) ≠ 0b00#2 := by
  obtain ⟨-, -, hcode, -⟩ := encoding_statement i
  simpa [codeWellFormed] using hcode

/-- Settles O3: by the port bytes of a packed operand, under each of the three codes. -/
theorem decodeOfEncodeIsTheCommand : Obligations.DecodeOfEncodeIsTheCommand := by
  intro i
  obtain ⟨hwellFormed, -, -, -⟩ := encoding_statement i
  exact ⟨hwellFormed, decode_encode i⟩

/-- A word whose fields are those of a command is its command word (R60). -/
theorem eq_encode_of_fields {cw : CommandWord} {i : Instr} (hop : commandOp cw = i.opcode)
    (hdin : bytesOfPort (commandDin cw) = i.operand) : cw = encode i := by
  rw [encode, ← hop, ← hdin, packPort_bytesOfPort, commandWord_fields]

/-- Every word is the command word of a command, or its code is the empty one (R62). -/
theorem eq_encode_or_emptyCode (cw : CommandWord) : (∃ i, cw = encode i) ∨ commandOp cw = 0b00#2 := by
  have hcodes : ∀ op : BitVec 2, op = 0b01#2 ∨ op = 0b10#2 ∨ op = 0b11#2 ∨ op = 0b00#2 := by decide
  obtain h | h | h | h := hcodes (commandOp cw)
  · exact .inl ⟨.keyexp _, eq_encode_of_fields h rfl⟩
  · exact .inl ⟨.enc _, eq_encode_of_fields h rfl⟩
  · exact .inl ⟨.dec _, eq_encode_of_fields h rfl⟩
  · exact .inr h

/-- The decoder rejects exactly the words of the empty code (R66). -/
theorem decode_eq_noCommand_iff (cw : CommandWord) : decode cw = .noCommand ↔ commandOp cw = 0b00#2 := by
  constructor
  · intro h
    obtain ⟨i, rfl⟩ | h0 := eq_encode_or_emptyCode cw
    · rw [decode_encode] at h; cases h
    · exact h0
  · intro h
    rw [← commandWord_fields cw, h, decode_emptyCode]

/-- The command word of a command is the only word that decodes to it (R62). -/
theorem decode_eq_command_iff (cw : CommandWord) (i : Instr) : decode cw = .command i ↔ cw = encode i := by
  constructor
  · intro h
    obtain ⟨j, rfl⟩ | h0 := eq_encode_or_emptyCode cw
    · rw [decode_encode] at h
      rw [Decoded.command.inj h]
    · rw [(decode_eq_noCommand_iff cw).mpr h0] at h; cases h
  · rintro rfl
    exact decode_encode i

/-- A word decodes to a command with the operand on its `din` exactly when it has the command's code (R62, R63). -/
theorem decode_eq_command_iff_code {cw : CommandWord} {i : Instr} (hdin : bytesOfPort (commandDin cw) = i.operand) :
    decode cw = .command i ↔ commandOp cw = i.opcode := by
  rw [decode_eq_command_iff]
  exact ⟨fun h => by rw [h, commandOp_encode], fun h => eq_encode_of_fields h hdin⟩

/-! ### The rows of the opcode table -/

/-- A row's mask keeps the two code bits, its pattern is its command's code on them, and its operand is free (R65). -/
theorem opcodeTable_row {row : OpcodeRow} (h : row ∈ opcodeTable) (x : Block) :
    row.mask = commandWord 0b11#2 0#128 ∧ row.pattern = commandWord (row.command x).opcode 0#128 ∧
      (row.command x).operand = x := by
  obtain rfl | rfl | rfl : row = _ ∨ row = _ ∨ row = _ := by simpa [opcodeTable] using h
  all_goals exact ⟨by decide, by simp only [Instr.opcode]; decide, rfl⟩

/-- Masking all but the code bits of a word leaves its code (R65). -/
theorem and_codeMask (cw : CommandWord) : cw &&& commandWord 0b11#2 0#128 = commandWord (commandOp cw) 0#128 := by
  have hones : commandOp cw &&& 0b11#2 = commandOp cw := BitVec.and_allOnes
  calc cw &&& commandWord 0b11#2 0#128
    _ = commandWord (commandOp cw) (commandDin cw) &&& commandWord 0b11#2 0#128 := by rw [commandWord_fields]
    _ = commandWord (commandOp cw &&& 0b11#2) (commandDin cw &&& 0#128) := BitVec.and_append
    _ = commandWord (commandOp cw) 0#128 := by rw [hones, BitVec.and_zero]

theorem commandWord_left_inj (op op' : BitVec 2) (din : BitVec 128) :
    commandWord op din = commandWord op' din ↔ op = op' := by
  refine ⟨fun h => ?_, fun h => by rw [h]⟩
  have hop := congrArg commandOp h
  rwa [(Laws.Encoding.fields_commandWord op din).1, (Laws.Encoding.fields_commandWord op' din).1] at hop

/-- A word matches a row exactly when it decodes to the row's command with the operand on its `din` (R62, R65). -/
theorem row_matches_iff {row : OpcodeRow} (h : row ∈ opcodeTable) (cw : CommandWord) :
    cw &&& row.mask = row.pattern ↔ decode cw = .command (row.command (bytesOfPort (commandDin cw))) := by
  obtain ⟨hmask, hpattern, hoperand⟩ := opcodeTable_row h (bytesOfPort (commandDin cw))
  rw [hmask, and_codeMask, hpattern, commandWord_left_inj, decode_eq_command_iff_code hoperand.symm]

/-- Settles O4: a word with a code is the command word of one command, and no other word decodes to that command. -/
theorem decoderIsBijectionByCode : Obligations.DecoderIsBijectionByCode := by
  refine ⟨fun cw => ⟨?keyexp, ?enc, ?dec, (decode_eq_noCommand_iff cw).symm⟩, fun cw row h => row_matches_iff h cw,
    fun i => ⟨encode i, commandOp_encode_ne_empty i, decode_encode i⟩, fun cw cw' i h h' => ?unique⟩
  case keyexp => exact (decode_eq_command_iff_code (i := .keyexp _) rfl).mpr
  case enc => exact (decode_eq_command_iff_code (i := .enc _) rfl).mpr
  case dec => exact (decode_eq_command_iff_code (i := .dec _) rfl).mpr
  case unique => rw [(decode_eq_command_iff cw i).mp h, (decode_eq_command_iff cw' i).mp h']

/-- Settles O6: each word is the command word of its command, and the last one has the empty code. -/
theorem sampleWordsDecode : Obligations.SampleWordsDecode := by
  refine ⟨?keyexp, ?enc, ?dec, ?none⟩
  case keyexp => exact (decode_eq_command_iff _ _).mpr (by decide)
  case enc => exact (decode_eq_command_iff _ _).mpr (by decide)
  case dec => exact (decode_eq_command_iff _ _).mpr (by decide)
  case none => exact (decode_eq_noCommand_iff _).mpr (by decide)

end Sys2Proof

namespace Sys2Proof.Machine

/-! ### The empty code and DECK -/

/-- Settles O5: an empty offer ends a `done` pulse and does nothing else, as a transaction and at an edge. -/
theorem emptyCodeChangesNothing : Obligations.EmptyCodeChangesNothing := by
  refine ⟨fun op din => ?code, fun s din rest hp hh => ?offer, fun s din hp => ?edge⟩
  case code => rw [decode_eq_noCommand_iff, (Laws.Encoding.fields_commandWord op din).1]
  case offer => exact ⟨_, step_emptyOffer hp hh (decode_emptyCode din), rfl, rfl, rfl, rfl, rfl⟩
  case edge =>
    exact ⟨_, clockEdge_emptyOffer hp rfl rfl (decode_emptyCode din), rfl, rfl, rfl, rfl, rfl,
      clockEdge_noOffer hp rfl rfl⟩

/-- Settles O39: the DEC finds the schedule that the KEYEXP before it has written. -/
theorem deckDecryptsUnderItsKey : Obligations.DeckDecryptsUnderItsKey := by
  intro block key s rest hp hh
  have hrun := calc runSteps 2 s
    _ = runSteps 1 _ := runSteps_keyexp 1 hp hh
    _ = step _ := runSteps_one _
    _ = exec (.dec block) _ := step_ofInstr hp rfl
    _ = .next _ := exec_dec_of_sv rfl block
  exact ⟨_, hrun, rfl, rfl, rfl, rfl⟩

/-! ### The digits of an operand -/

theorem hexDigit_mem (n : BitVec 4) : hexDigit n ∈ hexDigits := List.getElem_mem _

theorem hexValue_hexDigit (n : BitVec 4) : hexValue (hexDigit n) = some n := by
  revert n; decide

/-- The printed digits of bytes read back as the bytes (R14, R15). -/
theorem parseBytes_printBytes (bytes : List Byte) : parseBytes (bytes.flatMap printByte) = some bytes := by
  induction bytes with
  | nil => rfl
  | cons b bytes ih =>
    have hjoin : b.extractLsb' 4 4 ++ b.extractLsb' 0 4 = b :=
      (BitVec.extractLsb'_append_extractLsb'_eq_extractLsb' (x := b) rfl).trans BitVec.extractLsb'_eq_self
    simp [printByte, parseBytes, hexValue_hexDigit, ih, hjoin]

theorem parseBlock_printBlock (x : Block) : parseBlock (printBlock x) = some x := by
  rw [parseBlock, printBlock, parseBytes_printBytes]
  exact x.ofList_toList

/-- An operand is printed in hexadecimal digits only: no other character stands in its text (R68). -/
theorem notMem_printBlock {c : Char} (hc : c ∉ hexDigits) (x : Block) : c ∉ printBlock x := by
  intro h
  obtain ⟨b, -, hb⟩ := List.mem_flatMap.mp h
  obtain rfl | rfl : c = _ ∨ c = _ := by simpa [printByte] using hb
  all_goals exact hc (hexDigit_mem _)

/-! ### Lines without a comment and without blanks at their ends -/

/-- Text without a comment that neither begins nor ends with a blank: a line that is its own body. -/
structure Trimmed (text : List Char) : Prop where
  noComment : '#' ∉ text
  first : ∃ c, text.head? = some c ∧ c ≠ ' '
  last : ∃ c, text.getLast? = some c ∧ c ≠ ' '

/-- Two trimmed texts with anything but a comment between them make a trimmed text. -/
theorem Trimmed.append {a b : List Char} (ha : Trimmed a) (middle : List Char) (hm : '#' ∉ middle) (hb : Trimmed b) :
    Trimmed (a ++ (middle ++ b)) := by
  obtain ⟨c, hc, hfirst⟩ := ha.first
  obtain ⟨d, hd, hlast⟩ := hb.last
  exact ⟨by simp [ha.noComment, hm, hb.noComment], ⟨c, by simp [hc], hfirst⟩, ⟨d, by simp [hd], hlast⟩⟩

theorem Trimmed.dropWhile_blank {text : List Char} (h : Trimmed text) : text.dropWhile (· == ' ') = text := by
  obtain ⟨c, hc, hblank⟩ := h.first
  obtain ⟨rest, rfl⟩ := List.head?_eq_some_iff.mp hc
  exact List.dropWhile_cons_of_neg (by simpa using hblank)

theorem Trimmed.rdropWhile_blank {text : List Char} (h : Trimmed text) : text.rdropWhile (· == ' ') = text := by
  obtain ⟨c, hc, hblank⟩ := h.last
  obtain ⟨before, rfl⟩ := List.getLast?_eq_some_iff.mp hc
  exact List.rdropWhile_concat_neg _ _ _ (by simpa using hblank)

theorem lineBody_of_trimmed {line : List Char} (h : Trimmed line) : lineBody line = line := by
  have hcomment : line.takeWhile (· != '#') = line :=
    List.takeWhile_eq_self_iff.mpr fun c hc => by simpa using ne_of_mem_of_not_mem hc h.noComment
  calc lineBody line = ((line.takeWhile (· != '#')).dropWhile (· == ' ')).rdropWhile (· == ' ') := rfl
    _ = line := by rw [hcomment, h.dropWhile_blank, h.rdropWhile_blank]

/-- What stands after `#` has no bearing on a line (R68). -/
theorem parseLine_comment {line : List Char} (h : '#' ∉ line) (comment : List Char) :
    parseLine (line ++ '#' :: comment) = parseLine line := by
  have hline : ∀ c ∈ line, (c != '#') = true := fun c hc => by simpa using ne_of_mem_of_not_mem hc h
  have hbody : lineBody (line ++ '#' :: comment) = lineBody line := by
    simp [lineBody, List.takeWhile_append_of_pos hline, List.takeWhile_eq_self_iff.mpr hline]
  rw [parseLine, parseLine, hbody]

/-- The blank after a mnemonic ends it, and its operands follow (R68). -/
theorem splitBody_words {mnemonic operands : List Char} (hm : ' ' ∉ mnemonic) (ho : Trimmed operands) :
    splitBody (mnemonic ++ ' ' :: operands) = (mnemonic, operands) := by
  have hword : ∀ c ∈ mnemonic, (c != ' ') = true := fun c hc => by simpa using ne_of_mem_of_not_mem hc hm
  simp [splitBody, List.takeWhile_append_of_pos hword, List.dropWhile_append_of_pos hword, ho.dropWhile_blank]

/-! ### The printed lines -/

theorem trimmed_printBlock (x : Block) : Trimmed (printBlock x) := by
  have hdigit : ∀ n, hexDigit n ≠ ' ' := fun n => ne_of_mem_of_not_mem (hexDigit_mem n) (by decide)
  exact ⟨notMem_printBlock (by decide) x, ⟨_, rfl, hdigit _⟩, ⟨_, rfl, hdigit _⟩⟩

/-- The operands of DECK as they are printed (R69). -/
def printDeckOperands (block key : Block) : List Char := printBlock block ++ ([',', ' '] ++ printBlock key)

theorem trimmed_printDeckOperands (block key : Block) : Trimmed (printDeckOperands block key) :=
  (trimmed_printBlock block).append _ (by decide) (trimmed_printBlock key)

theorem printDeck_eq (block key : Block) :
    printDeck block key = ['D', 'E', 'C', 'K'] ++ ' ' :: printDeckOperands block key := by
  simp [printDeck, printDeckOperands]

theorem parseDeck_printDeckOperands (block key : Block) :
    parseDeck (printDeckOperands block key) = some (deckMoves block key) := by
  have hdigits : ∀ c ∈ printBlock block, (c != ',') = true := fun c hc => by
    simpa using ne_of_mem_of_not_mem hc (notMem_printBlock (by decide) block)
  simp [parseDeck, printDeckOperands, List.takeWhile_append_of_pos hdigits, List.dropWhile_append_of_pos hdigits,
    (trimmed_printBlock key).dropWhile_blank, parseBlock_printBlock]

theorem parseOperand_printBlock (command : Block → Instr) (x : Block) :
    parseOperand command (printBlock x) = some [HostMove.ofInstr (command x)] := by
  simp [parseOperand, parseBlock_printBlock]

/-- The words of a printed line are its mnemonic and its operands. -/
theorem lineBody_splitBody_words {mnemonic operands : List Char} (hm : Trimmed mnemonic) (hblank : ' ' ∉ mnemonic)
    (ho : Trimmed operands) :
    lineBody (mnemonic ++ ' ' :: operands) = mnemonic ++ ' ' :: operands ∧
      splitBody (mnemonic ++ ' ' :: operands) = (mnemonic, operands) :=
  ⟨lineBody_of_trimmed (hm.append [' '] (by decide) ho), splitBody_words hblank ho⟩

theorem trimmed_printMnemonic (i : Instr) : Trimmed (printMnemonic i) := by
  cases i <;> exact ⟨by simp [printMnemonic], ⟨_, rfl, by decide⟩, ⟨_, rfl, by decide⟩⟩

theorem parseLine_printInstr (i : Instr) : parseLine (printInstr i) = some [HostMove.ofInstr i] := by
  have hblank : ' ' ∉ printMnemonic i := by cases i <;> simp [printMnemonic]
  obtain ⟨hbody, hsplit⟩ := lineBody_splitBody_words (trimmed_printMnemonic i) hblank (trimmed_printBlock i.operand)
  rw [parseLine, printInstr, hbody, hsplit]
  cases i with
  | keyexp key => exact parseOperand_printBlock .keyexp key
  | enc block => exact parseOperand_printBlock .enc block
  | dec block => exact parseOperand_printBlock .dec block

theorem parseLine_printDeck (block key : Block) : parseLine (printDeck block key) = some (deckMoves block key) := by
  have hmnemonic : Trimmed ['D', 'E', 'C', 'K'] := ⟨by decide, ⟨_, rfl, by decide⟩, ⟨_, rfl, by decide⟩⟩
  obtain ⟨hbody, hsplit⟩ := lineBody_splitBody_words hmnemonic (by decide) (trimmed_printDeckOperands block key)
  rw [parseLine, printDeck_eq, hbody, hsplit]
  exact parseDeck_printDeckOperands block key

/-- Settles O58: a printed line is its own body and splits into its two words; a comment has no bearing on a line. -/
theorem textReadsBack : Obligations.TextReadsBack := by
  refine ⟨parseLine_printInstr, parseLine_printDeck, fun comment => ?reset, fun comment => ?read, fun comment => ?none⟩
  case reset => exact (parseLine_comment (by decide) comment).trans (by decide)
  case read => exact (parseLine_comment (by decide) comment).trans (by decide)
  case none => exact (parseLine_comment (line := []) (by decide) comment).trans (by decide)

end Sys2Proof.Machine
end

section
/-! Proofs of the family 40_gf256_and_tables.md: the laws of multiplication in GF(2^8) from the linearity of doubling,
the inverse that the S-box holds, and the constant tables. -/

namespace Sys2Proof

/-! ### Shift-and-add, bit by bit -/

theorem xtimes_eq_iterate (n : Nat) (a : Byte) : xtimes n a = xtime^[n] a := by
  induction n with
  | zero => rfl
  | succ n ih => rw [xtimes, ih, Function.iterate_succ_apply']

/-- The sum over the low bits is the fold over their numbers (R83). -/
theorem gmulLow_eq_foldl (a b : Byte) (n : Nat) : gmulLow a b n =
    (List.range n).foldl (fun sum i => sum ^^^ (if b.getLsbD i then xtime^[i] a else 0x00#8)) 0x00#8 := by
  induction n with
  | zero => rfl
  | succ n ih => rw [List.range_succ, List.foldl_append, ← ih, gmulLow, xtimes_eq_iterate]; rfl

theorem gmulLow_xor_left (a b c : Byte) (n : Nat) : gmulLow (a ^^^ b) c n = gmulLow a c n ^^^ gmulLow b c n := by
  induction n with
  | zero => simp [gmulLow]
  | succ n ih =>
    simp only [gmulLow, ih, xtimes_xor]
    split
    · ac_rfl
    · simp

theorem ite_xor (p q : Bool) (x : Byte) :
    (if p ^^ q then x else 0x00#8) = (if p then x else 0x00#8) ^^^ (if q then x else 0x00#8) := by
  cases p <;> cases q <;> simp

theorem gmulLow_xor_right (a b c : Byte) (n : Nat) : gmulLow a (b ^^^ c) n = gmulLow a b n ^^^ gmulLow a c n := by
  induction n with
  | zero => simp [gmulLow]
  | succ n ih =>
    simp only [gmulLow, ih, BitVec.getLsbD_xor, ite_xor]
    ac_rfl

/-- Multiplication distributes over addition on the left factor (R83). -/
theorem xor_gmul (a b c : Byte) : gmul (a ^^^ b) c = gmul a c ^^^ gmul b c := gmulLow_xor_left a b c 8

/-- Multiplication distributes over addition on the right factor (R83). -/
theorem gmul_xor (a b c : Byte) : gmul a (b ^^^ c) = gmul a b ^^^ gmul a c := gmulLow_xor_right a b c 8

@[simp] theorem gmul_zero (a : Byte) : gmul a 0x00#8 = 0x00#8 := by simp [gmul, gmulLow]

@[simp] theorem gmul_one (a : Byte) : gmul a 0x01#8 = a := by simp [gmul, gmulLow, xtimes]

/-- The bits of a byte are the sum of their powers of 0x02, none of which is reduced (R80, R83). -/
@[simp] theorem one_gmul : ∀ b : Byte, gmul 0x01#8 b = b := by decide +kernel

/-! ### The laws of the field, from the maps that commute with doubling -/

/-- A map of bytes that keeps sums and commutes with doubling: a linear map over the field (R81, R82). -/
structure FieldLinear (f : Byte → Byte) : Prop where
  map_xor : ∀ a b, f (a ^^^ b) = f a ^^^ f b
  map_xtime : ∀ a, f (xtime a) = xtime (f a)

namespace FieldLinear

variable {f : Byte → Byte}

theorem map_zero (hf : FieldLinear f) : f 0x00#8 = 0x00#8 := by
  simpa using hf.map_xor 0x00#8 0x00#8

theorem map_xtimes (hf : FieldLinear f) (n : Nat) (a : Byte) : f (xtimes n a) = xtimes n (f a) := by
  induction n with
  | zero => rfl
  | succ n ih => rw [xtimes, hf.map_xtime, ih, xtimes]

theorem map_gmulLow (hf : FieldLinear f) (a b : Byte) (n : Nat) : f (gmulLow a b n) = gmulLow (f a) b n := by
  induction n with
  | zero => exact hf.map_zero
  | succ n ih => rw [gmulLow, gmulLow, hf.map_xor, ih, apply_ite f, hf.map_xtimes, hf.map_zero]

/-- A linear map moves through a product onto its left factor. -/
theorem map_gmul (hf : FieldLinear f) (a b : Byte) : f (gmul a b) = gmul (f a) b := hf.map_gmulLow a b 8

end FieldLinear

theorem fieldLinear_xtime : FieldLinear xtime := ⟨xtime_xor, fun _ => rfl⟩

theorem xtime_gmul (a b : Byte) : gmul (xtime a) b = xtime (gmul a b) := (fieldLinear_xtime.map_gmul a b).symm

theorem fieldLinear_gmul (c : Byte) : FieldLinear (gmul · c) := ⟨(xor_gmul · · c), (xtime_gmul · c)⟩

/-- Two right factors can be exchanged, since multiplying by the second is linear. -/
theorem gmul_right_comm (a b c : Byte) : gmul (gmul a b) c = gmul (gmul a c) b := (fieldLinear_gmul c).map_gmul a b

/-- Multiplication is commutative (R83): the two factors of 0x01 exchanged. -/
theorem gmul_comm (a b : Byte) : gmul a b = gmul b a := by
  simpa using gmul_right_comm 0x01#8 a b

/-- Multiplication is associative (R83). -/
theorem gmul_assoc (a b c : Byte) : gmul (gmul a b) c = gmul a (gmul b c) :=
  calc gmul (gmul a b) c = gmul (gmul b a) c := by rw [gmul_comm a b]
    _ = gmul (gmul b c) a := gmul_right_comm b a c
    _ = gmul a (gmul b c) := gmul_comm _ a

/-- Two inverses of one byte are equal (R83). -/
theorem inverse_unique {a v w : Byte} (hv : gmul a v = 0x01#8) (hw : gmul a w = 0x01#8) : w = v :=
  calc w = gmul (gmul a v) w := by rw [hv, one_gmul]
    _ = gmul (gmul a w) v := gmul_right_comm a v w
    _ = v := by rw [hw, one_gmul]

/-! ### The inverse that an S-box entry holds -/

/-- The affine map of the S-box (R86). -/
def affineMap (v : Byte) : Byte :=
  v ^^^ v.rotateLeft 1 ^^^ v.rotateLeft 2 ^^^ v.rotateLeft 3 ^^^ v.rotateLeft 4 ^^^ 0x63#8

/-- The affine map undone. -/
def undoAffineMap (b : Byte) : Byte := b.rotateLeft 1 ^^^ b.rotateLeft 3 ^^^ b.rotateLeft 6 ^^^ 0x05#8

theorem affineMap_undoAffineMap : ∀ b : Byte, affineMap (undoAffineMap b) = b := by decide +kernel

/-- The inverse in the field as the S-box tabulates it, behind its affine map (R86). -/
def gfInverse (a : Byte) : Byte := undoAffineMap (sbox a)

/-- The 255 entries of the table that hold an inverse, one by one (R83, R86). -/
theorem gmul_gfInverse : ∀ a : Byte, a ≠ 0x00#8 → gmul a (gfInverse a) = 0x01#8 := by decide +kernel

theorem sbox_eq_affineMap (a : Byte) : sbox a = affineMap (gfInverse a) := (affineMap_undoAffineMap (sbox a)).symm

/-- Settles O10: by the linearity of multiplication in its left factor, and the inverse behind the S-box entry. -/
theorem gmulIsFieldMultiplication : Obligations.GmulIsFieldMultiplication := by
  refine ⟨fun a b => gmulLow_eq_foldl a b 8, gmul_comm, gmul_assoc, gmul_xor, gmul_one, gmul_zero,
    fun a ha => ?inverse, ?examples⟩
  case inverse =>
    exact ⟨gfInverse a, gmul_gfInverse a ha, fun w hw => inverse_unique (gmul_gfInverse a ha) hw⟩
  case examples => decide

/-! ### Doubling and the constant multipliers -/

/-- Bit 8 of the 9-bit value is bit 7 of the byte, and 0x11B is 0x1B in the low 8 bits (R82). -/
theorem xtime_eq_shift (a : Byte) : xtime a = (a <<< 1) ^^^ (if a.getLsbD 7 then 0x1B#8 else 0x00#8) := by
  have high : (a.setWidth 9 <<< 1).getLsbD 8 = a.getLsbD 7 := by simp
  have low : (a.setWidth 9 <<< 1).setWidth 8 = a <<< 1 := by
    ext i hi
    simp
  simp only [xtime, high, BitVec.setWidth_xor, low]
  split
  · rfl
  · simp

theorem gmul_xtime (a b : Byte) : gmul a (xtime b) = xtime (gmul a b) := by
  rw [gmul_comm, xtime_gmul, gmul_comm]

/-- Settles O9: the shift of the byte, and 0x02 as the double of 0x01. -/
theorem xtimeIsDoubling : Obligations.XtimeIsDoubling := by
  refine ⟨xtime_eq_shift, fun a => ?double, by decide⟩
  case double =>
    calc xtime a = gmul a (xtime 0x01#8) := by rw [gmul_xtime, gmul_one]
      _ = gmul a 0x02#8 := rfl

/-- Settles O11: each constant is a sum of doubles of 0x01, and a product with it the same sum of doubles. -/
theorem constantMultipliers : Obligations.ConstantMultipliers := by
  have h02 : 0x02#8 = xtime 0x01#8 := rfl
  have h03 : 0x03#8 = xtime 0x01#8 ^^^ 0x01#8 := rfl
  have h09 : 0x09#8 = xtime (xtime (xtime 0x01#8)) ^^^ 0x01#8 := rfl
  have h0B : 0x0B#8 = xtime (xtime (xtime 0x01#8)) ^^^ xtime 0x01#8 ^^^ 0x01#8 := rfl
  have h0D : 0x0D#8 = xtime (xtime (xtime 0x01#8)) ^^^ xtime (xtime 0x01#8) ^^^ 0x01#8 := rfl
  have h0E : 0x0E#8 = xtime (xtime (xtime 0x01#8)) ^^^ xtime (xtime 0x01#8) ^^^ xtime 0x01#8 := rfl
  refine ⟨fun a => ?products, by decide, by decide⟩
  simp only [h02, h03, h09, h0B, h0D, h0E, xor_gmul, xtime_gmul, one_gmul, and_self]

/-! ### The S-box and its inverse table -/

theorem invSbox_sbox : ∀ b : Byte, invSbox (sbox b) = b := by decide +kernel

theorem sbox_invSbox : ∀ b : Byte, sbox (invSbox b) = b := by decide +kernel

/-- Settles O12: the 256 entries of each table looked up in the other. -/
theorem sboxRoundTrip : Obligations.SboxRoundTrip := fun b => ⟨invSbox_sbox b, sbox_invSbox b⟩

theorem sbox_ne_self_and_ne_complement : ∀ b : Byte, sbox b ≠ b ∧ sbox b ≠ ~~~b := by decide +kernel

/-- A fixed point of the inverse table would be one of the S-box. -/
theorem invSbox_ne_self (b : Byte) : invSbox b ≠ b := fun h =>
  (sbox_ne_self_and_ne_complement b).1 (by simpa [h] using sbox_invSbox b)

/-- Settles O13: the entries of the S-box one by one, and the two tables as inverses of each other. -/
theorem sboxHasNoFixedPoint : Obligations.SboxHasNoFixedPoint := by
  refine ⟨fun b => ?entries, ?sbox, ?invSbox⟩
  case entries =>
    obtain ⟨hself, hcomplement⟩ := sbox_ne_self_and_ne_complement b
    exact ⟨hself, hcomplement, invSbox_ne_self b⟩
  case sbox => exact Function.bijective_iff_has_inverse.mpr ⟨invSbox, invSbox_sbox, sbox_invSbox⟩
  case invSbox => exact Function.bijective_iff_has_inverse.mpr ⟨sbox, sbox_invSbox, invSbox_sbox⟩

/-- Settles O14: the inverse of a byte other than 0 is the one behind its S-box entry, and 0 stands behind entry 0. -/
theorem sboxConstruction : Obligations.SboxConstruction := by
  intro a v hv
  have hinv : v = gfInverse a := by
    split at hv
    case isTrue ha => subst a v; decide
    case isFalse ha => exact inverse_unique (gmul_gfInverse a ha) hv
  rw [hinv]
  exact sbox_eq_affineMap a

/-! ### The round constants and the matrices -/

theorem rcon_succ (r : Fin 9) : rcon r.succ = xtime (rcon r.castSucc) := by
  fin_cases r <;> rfl

/-- Settles O15: the ten entries of the table. -/
theorem roundConstantsDouble : Obligations.RoundConstantsDouble := ⟨rfl, rcon_succ, rfl⟩

/-- Settles O16: the sixteen sums in each order. -/
theorem mixMatricesAreInverse : Obligations.MixMatricesAreInverse := by
  intro r c
  constructor
  · fin_cases r <;> fin_cases c <;> rfl
  · fin_cases r <;> fin_cases c <;> rfl

end Sys2Proof
end

section
/-! Proofs of the family 41_key_expansion.md: the bytes of the transformed last word, the four new words of a round key
each from the one before it, the same recurrence in schedule addresses, and KEYEXP. -/

namespace Sys2Proof

/-! ### The transformed last word -/

theorem Word.byte_xor (a b : Word) (i : Fin 4) : (a.xor b).byte i = a.byte i ^^^ b.byte i := by
  fin_cases i <;> rfl

theorem subWord_byte (w : Word) (i : Fin 4) : (subWord w).byte i = sbox (w.byte i) := by
  fin_cases i <;> rfl

/-- Rotation takes each byte from the next address, byte 3 from address 0 (R102). -/
theorem rotWord_byte (w : Word) (i : Fin 4) : (rotWord w).byte i = w.byte (i + 1) := by
  fin_cases i <;> rfl

/-- Substitution acts bytewise, so it does not matter where the bytes stand (R105). -/
theorem subWord_rotWord (w : Word) : subWord (rotWord w) = rotWord (subWord w) :=
  Word.eq_of_byte fun i => by rw [subWord_byte, rotWord_byte, rotWord_byte, subWord_byte]

/-- Byte `i` of `T(r)`: the next byte of the last word substituted, and the constant's byte added (R105). -/
theorem transformedWord_byte (p : Block) (r : Fin 10) (i : Fin 4) :
    (transformedWord p r).byte i = sbox ((p.word 3).byte (i + 1)) ^^^ (rconWord r).byte i :=
  calc (transformedWord p r).byte i
    _ = (subWord (rotWord (p.word 3))).byte i ^^^ (rconWord r).byte i := Word.byte_xor _ _ i
    _ = sbox ((p.word 3).byte (i + 1)) ^^^ (rconWord r).byte i := by rw [subWord_byte, rotWord_byte]

/-- Only byte 0 of a round constant is other than zero (R104). -/
theorem rconWord_byte_succ (r : Fin 10) (j : Fin 3) : (rconWord r).byte j.succ = 0#8 := by
  fin_cases j <;> rfl

/-- The bytes of `T(r)` but byte 0 are substituted bytes with nothing added (R105). -/
theorem transformedWord_byte_succ (p : Block) (r : Fin 10) (j : Fin 3) :
    (transformedWord p r).byte j.succ = sbox ((p.word 3).byte (j.succ + 1)) := by
  rw [transformedWord_byte, rconWord_byte_succ, BitVec.xor_zero]

/-- Settles O26: byte 0 with the round constant, and the three bytes that it leaves alone. -/
theorem transformedLastWord : Obligations.TransformedLastWord :=
  ⟨subWord_rotWord, fun p r => ⟨transformedWord_byte p r 0, transformedWord_byte_succ p r 0,
    transformedWord_byte_succ p r 1, transformedWord_byte_succ p r 2, rfl⟩⟩

/-! ### The four new words of a round key -/

/-- Byte `4c + i` of a round key is byte `i` of its word `c` (R46). -/
theorem Block.byte_eq_word_byte (x : Block) (c i : Fin 4) :
    x.byte ⟨4 * c.val + i.val, by omega⟩ = (x.word c).byte i := by
  obtain ⟨-, -, hword⟩ := blockIsColumnMajor
  exact (hword x c i).symm

theorem nextRoundKey_word_zero_byte (p : Block) (r : Fin 10) (i : Fin 4) :
    ((nextRoundKey p r).word 0).byte i = (p.word 0).byte i ^^^ (transformedWord p r).byte i :=
  Word.byte_xor p.c0 _ i

theorem nextRoundKey_word_succ (p : Block) (r : Fin 10) (j : Fin 3) :
    (nextRoundKey p r).word j.succ = (p.word j.succ).xor ((nextRoundKey p r).word j.castSucc) := by
  fin_cases j <;> rfl

theorem nextRoundKey_word_succ_byte (p : Block) (r : Fin 10) (j : Fin 3) (i : Fin 4) :
    ((nextRoundKey p r).word j.succ).byte i =
      (p.word j.succ).byte i ^^^ ((nextRoundKey p r).word j.castSucc).byte i := by
  rw [nextRoundKey_word_succ, Word.byte_xor]

/-- The unrolled form of new word `j + 1` from that of new word `j` (R107). -/
theorem nextRoundKey_unroll {p : Block} {r : Fin 10} {i : Fin 4} (j : Fin 3) {sum : Byte}
    (h : ((nextRoundKey p r).word j.castSucc).byte i = sum ^^^ (transformedWord p r).byte i) :
    ((nextRoundKey p r).word j.succ).byte i = (p.word j.succ).byte i ^^^ sum ^^^ (transformedWord p r).byte i := by
  rw [nextRoundKey_word_succ_byte, h, BitVec.xor_assoc]

/-- Settles O27: the bytes of the new words, and each unrolled form from the one before it. -/
theorem newRoundKeyWords : Obligations.NewRoundKeyWords := by
  intro p r
  have unroll1 (i : Fin 4) := nextRoundKey_unroll 0 (nextRoundKey_word_zero_byte p r i)
  have unroll2 (i : Fin 4) := nextRoundKey_unroll 1 (unroll1 i)
  have unroll3 (i : Fin 4) := nextRoundKey_unroll 2 (unroll2 i)
  refine ⟨fun i => ?word0, fun j i => ?later, unroll1, fun i => ?unroll2, fun i => ?unroll3⟩
  case word0 =>
    simpa [← Block.byte_eq_word_byte] using nextRoundKey_word_zero_byte p r i
  case later =>
    simpa [← Block.byte_eq_word_byte] using nextRoundKey_word_succ_byte p r j i
  case unroll2 => exact (unroll2 i).trans (by simp [BitVec.xor_assoc])
  case unroll3 => exact (unroll3 i).trans (by simp [BitVec.xor_assoc])

/-! ### The recurrence in schedule addresses -/

/-- Schedule byte `16r + 4c + i` is byte `i` of word `c` of round key `r` (R41, R46). -/
theorem scheduleByte_word (rk : Schedule) (r : Fin 11) (c i : Fin 4) :
    scheduleByte rk ⟨16 * r.val + 4 * c.val + i.val, by omega⟩ = (rk[r].word c).byte i := by
  have haddress : 16 * r.val + 4 * c.val + i.val = 16 * r.val + (4 * c.val + i.val) := Nat.add_assoc ..
  simp only [haddress]
  exact (scheduleByte_roundKey rk r ⟨4 * c.val + i.val, by omega⟩).trans (Block.byte_eq_word_byte rk[r] c i)

/-- Round key `r + 1` of an expansion is made from its round key `r` alone (R108). -/
theorem keyExpansion_roundKey_succ (key : Block) (r : Fin 10) :
    (keyExpansion key)[r.succ] = nextRoundKey (keyExpansion key)[r.castSucc] r :=
  calc (keyExpansion key)[r.succ]
    _ = expandedKey key r.succ := keyExpansion_getElem key r.succ.val r.succ.isLt
    _ = nextRoundKey (expandedKey key r.castSucc) r := expandedKey_succ key r
    _ = nextRoundKey (keyExpansion key)[r.castSucc] r :=
      congrArg (nextRoundKey · r) (keyExpansion_getElem key r.castSucc.val r.castSucc.isLt).symm

/-- A byte of word 1, 2 or 3 of a later round key: the byte 16 places earlier and the byte 4 places earlier (R107). -/
theorem scheduleByte_keyExpansion_succ (key : Block) (r : Fin 10) (j : Fin 3) (i : Fin 4) :
    scheduleByte (keyExpansion key) ⟨16 * (r.val + 1) + 4 * (j.val + 1) + i.val, by omega⟩ =
      scheduleByte (keyExpansion key) ⟨16 * r.val + 4 * (j.val + 1) + i.val, by omega⟩ ^^^
        scheduleByte (keyExpansion key) ⟨16 * (r.val + 1) + 4 * j.val + i.val, by omega⟩ := by
  have hnew := scheduleByte_word (keyExpansion key) r.succ j.succ i
  have hold := scheduleByte_word (keyExpansion key) r.castSucc j.succ i
  have hword := scheduleByte_word (keyExpansion key) r.succ j.castSucc i
  rw [keyExpansion_roundKey_succ] at hnew hword
  exact hnew.trans ((nextRoundKey_word_succ_byte _ r j i).trans (congrArg₂ (· ^^^ ·) hold.symm hword.symm))

/-- Settles O28: the raw key at the first sixteen addresses, and the recurrence of the words at the others. -/
theorem keyExpansionByteRecurrence : Obligations.KeyExpansionByteRecurrence := by
  intro key
  refine ⟨fun i => ?rawKey, Machine.keyExpansion_roundKey_zero key, keyExpansion_roundKey_succ key,
    scheduleByte_keyExpansion_succ key⟩
  case rawKey =>
    simpa using scheduleByte_roundKey (keyExpansion key) 0 i

end Sys2Proof

namespace Sys2Proof.Machine

/-! ### KEYEXP -/

/-- Settles O29: the word of the code and the packed key, and the one outcome of KEYEXP, read field by field. -/
theorem keyexpCompletes : Obligations.KeyexpCompletes := by
  intro key s
  have hword : decode (commandWord 0b01#2 (packPort key)) = .command (.keyexp key) :=
    (decode_keyexpCode _).trans (by rw [bytesOfPort_packPort])
  exact ⟨hword, _, exec_keyexp key s, rfl, rfl, rfl, rfl, rfl, rfl, rfl, rfl⟩

end Sys2Proof.Machine
end

section
/-! Proofs of the family 42_forward_encrypt.md: each round function cell by cell and undone, the rounds of the forward
transform, the inverse transform as its inverse for every schedule, and ENC alone and in a mix of transforms. -/

namespace Sys2Proof

/-! ### Sums and maps of blocks, cell by cell -/

theorem Block.word_xor (x y : Block) (c : Fin 4) : (x.xor y).word c = (x.word c).xor (y.word c) := by
  fin_cases c <;> rfl

theorem Block.cell_xor (x y : Block) (r c : Fin 4) : (x.xor y).cell r c = x.cell r c ^^^ y.cell r c := by
  rw [Block.cell, Block.word_xor, Word.byte_xor]; rfl

theorem Word.byte_map (f : Byte → Byte) (w : Word) (r : Fin 4) : (w.map f).byte r = f (w.byte r) := by
  fin_cases r <;> rfl

theorem Block.word_map (f : Byte → Byte) (x : Block) (c : Fin 4) : (x.map f).word c = (x.word c).map f := by
  fin_cases c <;> rfl

theorem Block.cell_map (f : Byte → Byte) (x : Block) (r c : Fin 4) : (x.map f).cell r c = f (x.cell r c) := by
  rw [Block.cell, Block.word_map, Word.byte_map]; rfl

theorem Block.word_mapWords (f : Word → Word) (x : Block) (c : Fin 4) : (x.mapWords f).word c = f (x.word c) := by
  fin_cases c <;> rfl

/-- Two sequences of 16 bytes are equal when all their columns are. -/
theorem Block.eq_of_word {x y : Block} (h : ∀ c, x.word c = y.word c) : x = y :=
  Block.ext_words (h 0) (h 1) (h 2) (h 3)

/-! ### AddRoundKey -/

theorem addRoundKey_byte (x k : Block) (i : Fin 16) : (addRoundKey x k).byte i = x.byte i ^^^ k.byte i :=
  Block.cell_xor x k _ _

@[simp] theorem addRoundKey_addRoundKey (x k : Block) : addRoundKey (addRoundKey x k) k = x := Block.xor_self_right x k

theorem bytesOfPort_zero_byte (i : Fin 16) : (bytesOfPort 0#128).byte i = 0x00#8 :=
  (Block.byte_ofFn _ i).trans BitVec.extractLsb'_zero

/-- Settles O17: the sums of the bytes, and what they are where the key is zero or the state itself. -/
theorem addRoundKeyIsItsOwnInverse : Obligations.AddRoundKeyIsItsOwnInverse := by
  refine ⟨addRoundKey_byte, fun x k r c => ?cell, addRoundKey_addRoundKey, fun x => ⟨?zeroKey, ?sameKey⟩,
    by decide⟩
  case cell => rw [← Block.cell_eq_byte]; exact Block.cell_xor x k r c
  case zeroKey => exact Block.eq_of_byte fun i => by rw [addRoundKey_byte, bytesOfPort_zero_byte, BitVec.xor_zero]
  case sameKey => exact Block.eq_of_byte fun i => by rw [addRoundKey_byte, bytesOfPort_zero_byte, BitVec.xor_self]

/-! ### SubBytes -/

theorem subBytes_cell (x : Block) (r c : Fin 4) : (subBytes x).cell r c = sbox (x.cell r c) := Block.cell_map sbox x r c

theorem invSubBytes_cell (x : Block) (r c : Fin 4) : (invSubBytes x).cell r c = invSbox (x.cell r c) :=
  Block.cell_map invSbox x r c

@[simp] theorem invSubBytes_subBytes (x : Block) : invSubBytes (subBytes x) = x :=
  Block.eq_of_cell fun r c => by rw [invSubBytes_cell, subBytes_cell, invSbox_sbox]

@[simp] theorem subBytes_invSubBytes (x : Block) : subBytes (invSubBytes x) = x :=
  Block.eq_of_cell fun r c => by rw [subBytes_cell, invSubBytes_cell, sbox_invSbox]

/-- Settles O18: the bytes as cells, and the tables as inverses of each other. -/
theorem subBytesActsBytewise : Obligations.SubBytesActsBytewise :=
  ⟨fun x _ => subBytes_cell x _ _, fun x _ => invSubBytes_cell x _ _,
    fun x => ⟨invSubBytes_subBytes x, subBytes_invSubBytes x⟩, by decide⟩

/-! ### ShiftRows -/

theorem shiftRows_cell (x : Block) (r c : Fin 4) : (shiftRows x).cell r c = x.cell r (c + r) := by
  fin_cases r <;> fin_cases c <;> rfl

theorem invShiftRows_cell (x : Block) (r c : Fin 4) : (invShiftRows x).cell r c = x.cell r (c - r) := by
  fin_cases r <;> fin_cases c <;> rfl

@[simp] theorem invShiftRows_shiftRows (x : Block) : invShiftRows (shiftRows x) = x :=
  Block.eq_of_cell fun r c => by rw [invShiftRows_cell, shiftRows_cell, sub_add_cancel]

@[simp] theorem shiftRows_invShiftRows (x : Block) : shiftRows (invShiftRows x) = x :=
  Block.eq_of_cell fun r c => by rw [shiftRows_cell, invShiftRows_cell, add_sub_cancel_right]

/-- Settles O19: where the sixteen cells come from, and the two moves of column numbers cancelled. -/
theorem shiftRowsRotatesRows : Obligations.ShiftRowsRotatesRows :=
  ⟨shiftRows_cell, invShiftRows_cell, fun x => ⟨invShiftRows_shiftRows x, shiftRows_invShiftRows x⟩, fun _ => rfl,
    by decide⟩

/-! ### A matrix times a column -/

theorem matrixTimesColumn_byte (m : Matrix) (w : Word) (r : Fin 4) :
    (matrixTimesColumn m w).byte r = rowTimesColumn (m.row r) w := by
  fin_cases r <;> rfl

theorem mapWords_matrixTimesColumn_cell (m : Matrix) (x : Block) (r c : Fin 4) :
    (x.mapWords (matrixTimesColumn m)).cell r c = rowTimesColumn (m.row r) (x.word c) := by
  rw [Block.cell, Block.word_mapWords, matrixTimesColumn_byte]

/-- A row times a column of equal bytes is the sum of the row times the byte. -/
theorem rowTimesColumn_equalBytes (row : Word) (a : Byte) :
    rowTimesColumn row ⟨a, a, a, a⟩ = gmul (row.b0 ^^^ row.b1 ^^^ row.b2 ^^^ row.b3) a := by
  simp only [rowTimesColumn, xor_gmul]

/-- A matrix whose rows each sum to 0x01 leaves a column of equal bytes as it is (R120, R138). -/
theorem matrixTimesColumn_equalBytes {m : Matrix}
    (h : ∀ r, (m.row r).b0 ^^^ (m.row r).b1 ^^^ (m.row r).b2 ^^^ (m.row r).b3 = 0x01#8) (a : Byte) :
    matrixTimesColumn m ⟨a, a, a, a⟩ = ⟨a, a, a, a⟩ :=
  Word.eq_of_byte fun r => by
    rw [matrixTimesColumn_byte, rowTimesColumn_equalBytes, h, one_gmul]
    fin_cases r <;> rfl

/-- Column `c` of a matrix. -/
def Matrix.column (m : Matrix) (c : Fin 4) : Word := Word.ofFn (m.entry · c)

/-- A row times a product with a matrix: the row times each column of the matrix, times the bytes. -/
theorem rowTimesColumn_matrixTimesColumn (row : Word) (m : Matrix) (w : Word) :
    rowTimesColumn row (matrixTimesColumn m w) =
      rowTimesColumn (Word.ofFn fun c => rowTimesColumn row (m.column c)) w := by
  simp only [rowTimesColumn, matrixTimesColumn, Matrix.column, Matrix.entry, Matrix.row, Word.byte, Word.ofFn,
    gmul_xor, xor_gmul, gmul_assoc]
  ac_rfl

/-- A row of the identity matrix picks its own byte of a column. -/
theorem rowTimesColumn_unit (r : Fin 4) (w : Word) :
    rowTimesColumn (Word.ofFn fun c => if r = c then 0x01#8 else 0x00#8) w = w.byte r := by
  have zero_gmul (b : Byte) : gmul 0x00#8 b = 0x00#8 := by rw [gmul_comm, gmul_zero]
  fin_cases r <;> simp [rowTimesColumn, Word.ofFn, Word.byte, zero_gmul]

/-- Multiplying by a matrix is undone by multiplying by its inverse (R92, R138). -/
theorem matrixTimesColumn_inverse {a b : Matrix}
    (h : ∀ r c, rowTimesColumn (a.row r) (b.column c) = if r = c then 0x01#8 else 0x00#8) (w : Word) :
    matrixTimesColumn a (matrixTimesColumn b w) = w :=
  Word.eq_of_byte fun r =>
    calc (matrixTimesColumn a (matrixTimesColumn b w)).byte r
      _ = rowTimesColumn (a.row r) (matrixTimesColumn b w) := matrixTimesColumn_byte a _ r
      _ = rowTimesColumn (Word.ofFn fun c => rowTimesColumn (a.row r) (b.column c)) w :=
        rowTimesColumn_matrixTimesColumn _ b w
      _ = w.byte r := by simp only [h, rowTimesColumn_unit]

/-! ### MixColumns -/

theorem gmul_two_three (a : Byte) : gmul 0x02#8 a = xtime a ∧ gmul 0x03#8 a = xtime a ^^^ a := by
  obtain ⟨products, -, -⟩ := constantMultipliers
  obtain ⟨-, htwo, hthree, -⟩ := products a
  exact ⟨htwo, hthree⟩

/-- A column times `MIX`, with doublings (R84, R120). -/
theorem matrixTimesColumn_mixMatrix (w : Word) : matrixTimesColumn mixMatrix w =
    ⟨xtime w.b0 ^^^ (xtime w.b1 ^^^ w.b1) ^^^ w.b2 ^^^ w.b3,
     w.b0 ^^^ xtime w.b1 ^^^ (xtime w.b2 ^^^ w.b2) ^^^ w.b3,
     w.b0 ^^^ w.b1 ^^^ xtime w.b2 ^^^ (xtime w.b3 ^^^ w.b3),
     (xtime w.b0 ^^^ w.b0) ^^^ w.b1 ^^^ w.b2 ^^^ xtime w.b3⟩ := by
  simp only [matrixTimesColumn, rowTimesColumn, mixMatrix, one_gmul, gmul_two_three]

@[simp] theorem invMixColumns_mixColumns (x : Block) : invMixColumns (mixColumns x) = x :=
  Block.eq_of_word fun c => by
    rw [invMixColumns, mixColumns, Block.word_mapWords, Block.word_mapWords]
    exact matrixTimesColumn_inverse (fun r c => (mixMatricesAreInverse r c).1) _

@[simp] theorem mixColumns_invMixColumns (x : Block) : mixColumns (invMixColumns x) = x :=
  Block.eq_of_word fun c => by
    rw [invMixColumns, mixColumns, Block.word_mapWords, Block.word_mapWords]
    exact matrixTimesColumn_inverse (fun r c => (mixMatricesAreInverse r c).2) _

/-- Settles O20: the row times the column, its constants as doublings, and the rows of `MIX`, which each sum to 0x01. -/
theorem mixColumnsMultipliesColumns : Obligations.MixColumnsMultipliesColumns := by
  refine ⟨fun x r c => mapWords_matrixTimesColumn_cell mixMatrix x r c, fun x c => ?doublings, fun a => ?equalBytes,
    by decide⟩
  case doublings => exact (Block.word_mapWords _ x c).trans (matrixTimesColumn_mixMatrix _)
  case equalBytes =>
    have hrows := matrixTimesColumn_equalBytes (m := mixMatrix) (by decide) a
    simp only [mixColumns, Block.mapWords, hrows]

/-! ### Which round functions commute -/

theorem subBytes_shiftRows (x : Block) : subBytes (shiftRows x) = shiftRows (subBytes x) :=
  Block.eq_of_cell fun r c => by rw [subBytes_cell, shiftRows_cell, shiftRows_cell, subBytes_cell]

theorem invSubBytes_invShiftRows (x : Block) : invSubBytes (invShiftRows x) = invShiftRows (invSubBytes x) :=
  Block.eq_of_cell fun r c => by rw [invSubBytes_cell, invShiftRows_cell, invShiftRows_cell, invSubBytes_cell]

/-- Settles O24: a substitution does not look at the place of a byte; a key with one byte other than zero is mixed into
the other bytes of its column only where the key is added first. -/
theorem whichRoundFunctionsCommute : Obligations.WhichRoundFunctionsCommute :=
  ⟨subBytes_shiftRows, invSubBytes_invShiftRows, ⟨bytesOfPort 0#128, bytesOfPort 1#128, by decide⟩,
    ⟨bytesOfPort 0#128, bytesOfPort 1#128, by decide⟩⟩

/-! ### The rounds of Cipher -/

/-- The state after the initial key mixing and after each of the nine full rounds (R121, R123). -/
def fullRoundState (b : Block) (rk : Schedule) : Fin 10 → Block :=
  Fin.induction (addRoundKey b rk[0]) fun r x => forwardRound x (rk[r.val + 1]'(by omega))

theorem fullRoundState_succ (b : Block) (rk : Schedule) (r : Fin 9) :
    fullRoundState b rk r.succ = forwardRound (fullRoundState b rk r.castSucc) (rk[r.val + 1]'(by omega)) :=
  Fin.induction_succ ..

theorem cipher_eq_finalRound (b : Block) (rk : Schedule) :
    cipher b rk = finalRound (fullRoundState b rk 9) rk[10] := rfl

/-- The states of the forward transform: those of the full rounds and, last, the result (R122, R123). -/
def cipherState (b : Block) (rk : Schedule) : Fin 11 → Block := Fin.snoc (fullRoundState b rk) (cipher b rk)

theorem cipherState_castSucc (b : Block) (rk : Schedule) (r : Fin 10) :
    cipherState b rk r.castSucc = fullRoundState b rk r := Fin.snoc_castSucc ..

theorem cipherState_last (b : Block) (rk : Schedule) : cipherState b rk 10 = cipher b rk := Fin.snoc_last ..

/-- Settles O22: the fold over the round numbers, state by state. -/
theorem cipherRunsTenRounds : Obligations.CipherRunsTenRounds := by
  intro b rk
  refine ⟨cipherState b rk, ?initial, fun r => ?full, ?final, (cipherState_last b rk).symm⟩
  case initial => exact cipherState_castSucc b rk 0
  case full =>
    calc cipherState b rk r.succ.castSucc
      _ = fullRoundState b rk r.succ := cipherState_castSucc b rk r.succ
      _ = forwardRound (fullRoundState b rk r.castSucc) _ := fullRoundState_succ b rk r
      _ = forwardRound (cipherState b rk r.castSucc.castSucc) _ := by rw [cipherState_castSucc]
  case final =>
    calc cipherState b rk 10
      _ = finalRound (fullRoundState b rk 9) rk[10] := (cipherState_last b rk).trans (cipher_eq_finalRound b rk)
      _ = finalRound (cipherState b rk 9) rk[10] := congrArg (finalRound · _) (cipherState_castSucc b rk 9).symm

/-! ### The inverse transform undoes the forward one -/

/-- The part of every round before MixColumns and the key: a permutation of the blocks (R121). -/
def subShift (x : Block) : Block := shiftRows (subBytes x)

/-- The part of every inverse round before the key and InvMixColumns (R140). -/
def invShiftSub (x : Block) : Block := invSubBytes (invShiftRows x)

@[simp] theorem invShiftSub_subShift (x : Block) : invShiftSub (subShift x) = x := by
  rw [invShiftSub, subShift, invShiftRows_shiftRows, invSubBytes_subBytes]

@[simp] theorem subShift_invShiftSub (x : Block) : subShift (invShiftSub x) = x := by
  rw [subShift, invShiftSub, subBytes_invSubBytes, shiftRows_invShiftRows]

theorem forwardRound_eq (x k : Block) : forwardRound x k = addRoundKey (mixColumns (subShift x)) k := rfl

theorem finalRound_eq (x k : Block) : finalRound x k = addRoundKey (subShift x) k := rfl

theorem inverseRound_eq (x k : Block) : inverseRound x k = invMixColumns (addRoundKey (invShiftSub x) k) := rfl

theorem inverseFinal_eq (x k : Block) : inverseFinal x k = addRoundKey (invShiftSub x) k := rfl

/-- The inverse rounds meet the states of the forward ones half a round later: each with its bytes already substituted
and its rows shifted (R140, R142). -/
theorem inverseRound_subShift_forwardRound (x k : Block) :
    inverseRound (subShift (forwardRound x k)) k = subShift x := by
  rw [inverseRound_eq, invShiftSub_subShift, forwardRound_eq, addRoundKey_addRoundKey, invMixColumns_mixColumns]

theorem forwardRound_invShiftSub_inverseRound (y k : Block) :
    forwardRound (invShiftSub (inverseRound y k)) k = invShiftSub y := by
  rw [forwardRound_eq, subShift_invShiftSub, inverseRound_eq, mixColumns_invMixColumns, addRoundKey_addRoundKey]

/-- Steps `g` that undo steps `f`, seen through `u`, undo a whole list of them from its end on. -/
theorem foldl_reverse_undoes {α ι : Type} {f g : α → ι → α} {u : α → α} (h : ∀ x i, g (u (f x i)) i = u x)
    (l : List ι) (x : α) : l.reverse.foldl g (u (l.foldl f x)) = u x := by
  induction l generalizing x with
  | nil => rfl
  | cons i l ih => simp only [List.reverse_cons, List.foldl_append, List.foldl_cons, List.foldl_nil, ih, h]

theorem inverseRoundNumbers_eq_reverse : inverseRoundNumbers = forwardRoundNumbers.reverse := rfl

theorem forwardRoundNumbers_eq_reverse : forwardRoundNumbers = inverseRoundNumbers.reverse := rfl

/-- Decryption with a schedule undoes encryption with it (R126, R142). -/
theorem invCipher_cipher (rk : Schedule) (b : Block) : invCipher (cipher b rk) rk = b := by
  rw [invCipher, cipher, finalRound_eq, addRoundKey_addRoundKey, inverseRoundNumbers_eq_reverse,
    foldl_reverse_undoes fun x r => inverseRound_subShift_forwardRound x rk[r], inverseFinal_eq, invShiftSub_subShift,
    addRoundKey_addRoundKey]

/-- Encryption with a schedule undoes decryption with it (R126, R142). -/
theorem cipher_invCipher (rk : Schedule) (b : Block) : cipher (invCipher b rk) rk = b := by
  rw [cipher, invCipher, inverseFinal_eq, addRoundKey_addRoundKey, forwardRoundNumbers_eq_reverse,
    foldl_reverse_undoes fun y r => forwardRound_invShiftSub_inverseRound y rk[r], finalRound_eq, subShift_invShiftSub,
    addRoundKey_addRoundKey]

/-- Settles O25: the rounds undone one by one from both ends, and the inverse transform as the two-sided inverse. -/
theorem transformsAreMutuallyInverse : Obligations.TransformsAreMutuallyInverse :=
  ⟨invCipher_cipher, cipher_invCipher,
    fun rk => Function.bijective_iff_has_inverse.mpr ⟨(invCipher · rk), invCipher_cipher rk, cipher_invCipher rk⟩⟩

end Sys2Proof

namespace Sys2Proof.Machine

/-! ### ENC, and transforms in any mix -/

/-- Settles O30: the word of the code and the packed block, and the outcome for each value of `SV`. -/
theorem encCompletes : Obligations.EncCompletes := by
  intro block s
  have hword : decode (commandWord 0b10#2 (packPort block)) = .command (.enc block) :=
    (decode_encCode _).trans (by rw [bytesOfPort_packPort])
  exact ⟨hword, fun hs => ⟨_, exec_enc_of_sv hs block, rfl, rfl, rfl, rfl, rfl, rfl, rfl, rfl⟩,
    exec_without_schedule rfl⟩

theorem exec_enc_next {block : Block} {s t : State} (h : exec (.enc block) s = .next t) :
    t = (s.setBlk (some (cipher block s.rk))).setDone true := by
  obtain ⟨hs, -⟩ := exec_transform_next rfl h
  exact Host.Outcome.next.inj (h.symm.trans (exec_enc_of_sv hs block))

theorem exec_dec_next {block : Block} {s t : State} (h : exec (.dec block) s = .next t) :
    t = (s.setBlk (some (invCipher block s.rk))).setDone true := by
  obtain ⟨hs, -⟩ := exec_transform_next rfl h
  exact Host.Outcome.next.inj (h.symm.trans (exec_dec_of_sv hs block))

/-- A transform writes to `BLK` a function of the schedule alone, and keeps the schedule (R124, R125). -/
theorem exec_transform_result {i : Instr} (hi : needsSchedule i = true) :
    ∃ result : Schedule → Block, ∀ s t, exec i s = .next t → t.blk = some (result s.rk) ∧ t.rk = s.rk := by
  cases i with
  | keyexp key => cases hi
  | enc block => exact ⟨cipher block, fun s t h => by rw [exec_enc_next h]; exact ⟨rfl, rfl⟩⟩
  | dec block => exact ⟨invCipher block, fun s t h => by rw [exec_dec_next h]; exact ⟨rfl, rfl⟩⟩

/-- Settles O35: one function of the schedule gives both results. -/
theorem transformsArePure : Obligations.TransformsArePure := by
  intro i s s' t t' hi hrk h h'
  obtain ⟨result, hresult⟩ := exec_transform_result hi
  obtain ⟨hblk, hkept⟩ := hresult s t h
  obtain ⟨hblk', hkept'⟩ := hresult s' t' h'
  exact ⟨by rw [hblk, hblk', hrk], hkept, hkept'⟩

/-- A transform offered to a ready core with a schedule leaves it ready, with the same schedule (R28, R125). -/
theorem step_transform {s : State} {i : Instr} {rest : List HostMove} (hp : s.phase = .idle) (hs : s.sv = true)
    (hi : needsSchedule i = true) (hh : s.host = HostMove.ofInstr i :: rest) :
    ∃ t, step s = .next t ∧ t.rk = s.rk ∧ t.sv = true ∧ t.host = rest ∧ t.phase = .idle := by
  obtain ⟨b, hexec⟩ := exec_transform (s := s.setHost rest) hi hs
  exact ⟨_, (step_ofInstr hp hh).trans hexec, rfl, hs, rfl, hp⟩

/-- A run of transforms ends as its last one does from a ready core with the schedule of the start (R125, R146). -/
theorem runSteps_transforms {before : List Instr} {last : Instr} {s : State} {rest : List HostMove}
    (hp : s.phase = .idle) (hs : s.sv = true) (hbefore : ∀ i ∈ before, needsSchedule i = true)
    (hh : s.host = (before.map HostMove.ofInstr ++ [HostMove.ofInstr last]) ++ rest) :
    ∃ u : State, runSteps (before.length + 1) s = exec last u ∧ u.rk = s.rk ∧ u.sv = true ∧ u.host = rest ∧
      u.phase = .idle := by
  induction before generalizing s with
  | nil => exact ⟨s.setHost rest, (runSteps_one s).trans (step_ofInstr hp hh), rfl, hs, rfl, hp⟩
  | cons i before ih =>
    obtain ⟨hi, hlater⟩ := List.forall_mem_cons.mp hbefore
    obtain ⟨t, hstep, hrk, hsv, hhost, hphase⟩ := step_transform hp hs hi hh
    obtain ⟨u, hrun, hurk, hkept⟩ := ih hphase hsv hlater hhost
    exact ⟨u, (runSteps_next hstep _).trans hrun, hurk.trans hrk, hkept⟩

/-- Settles O36: by the state that the last transform finds, which holds the schedule of the start. -/
theorem anyMixOfTransformsWithoutDrift : Obligations.AnyMixOfTransformsWithoutDrift := by
  intro before last s rest hp hs hbefore hlast hh
  obtain ⟨u, hrun, hrk, husv, hhost, hphase⟩ := runSteps_transforms hp hs hbefore hh
  rw [hrun, ← hrk]
  cases last with
  | keyexp key => cases hlast
  | enc block =>
    exact ⟨_, exec_enc_of_sv husv block, rfl, husv, hhost, hphase, fun _ h => by cases h; rfl, nofun⟩
  | dec block =>
    exact ⟨_, exec_dec_of_sv husv block, rfl, husv, hhost, hphase, nofun, fun _ h => by cases h; rfl⟩

/-! ### The known answer -/

/-- The plaintext of 95_test_vectors.md section 1.1 under its key. -/
theorem cipher_knownAnswer : cipher (bytesOfPort 0x6bc1bee22e409f96e93d7e117393172a#128)
    (keyExpansion (bytesOfPort 0x2b7e151628aed2a6abf7158809cf4f3c#128)) =
      bytesOfPort 0x3ad77bb40d7a3660a89ecaf32466ef97#128 := by decide +kernel

/-- Its last round key. -/
theorem keyExpansion_knownAnswer : (keyExpansion (bytesOfPort 0x2b7e151628aed2a6abf7158809cf4f3c#128))[10] =
    bytesOfPort 0xd014f9a8c9ee2589e13f0cc8b6630ca6#128 := by decide +kernel

/-- Settles O40: the last round key and the ciphertext computed, and the plaintext as the inverse of the ciphertext. -/
theorem knownAnswer : Obligations.KnownAnswer := by
  intro s
  refine ⟨_, _, _, exec_keyexp _ s, keyExpansion_knownAnswer, exec_enc_of_sv rfl _, congrArg some cipher_knownAnswer,
    exec_dec_of_sv rfl _, congrArg some ?plaintext⟩
  rw [← cipher_knownAnswer]
  exact invCipher_cipher _ _

end Sys2Proof.Machine
end

section
/-! Proofs of the family 43_inverse_decrypt.md: InvMixColumns by rows and columns, the rounds of the inverse transform,
DEC, and the round trip of the two transforms under the schedule of a key. -/

namespace Sys2Proof

/-! ### InvMixColumns -/

/-- Settles O21: the row times the column, the matrices as inverses of each other, and the rows of `INVMIX`, which each
sum to 0x01. -/
theorem invMixColumnsUndoesMixColumns : Obligations.InvMixColumnsUndoesMixColumns :=
  ⟨mapWords_matrixTimesColumn_cell invMixMatrix, fun x => ⟨invMixColumns_mixColumns x, mixColumns_invMixColumns x⟩,
    matrixTimesColumn_equalBytes (by decide), by decide⟩

/-! ### The rounds of InvCipher -/

/-- The state before each of the round keys 9 down to 0 is used: the block with round key 10 added, and the result of
each inverse round (R140, R141). -/
def inverseRoundState (b : Block) (rk : Schedule) : Fin 10 → Block :=
  Fin.reverseInduction (addRoundKey b rk[10]) fun r y => inverseRound y (rk[r.val + 1]'(by omega))

theorem inverseRoundState_last (b : Block) (rk : Schedule) : inverseRoundState b rk 9 = addRoundKey b rk[10] :=
  Fin.reverseInduction_last ..

theorem inverseRoundState_castSucc (b : Block) (rk : Schedule) (r : Fin 9) :
    inverseRoundState b rk r.castSucc = inverseRound (inverseRoundState b rk r.succ) (rk[r.val + 1]'(by omega)) :=
  Fin.reverseInduction_castSucc ..

theorem invCipher_eq_inverseFinal (b : Block) (rk : Schedule) :
    invCipher b rk = inverseFinal (inverseRoundState b rk 0) rk[0] := rfl

/-- The states of the inverse transform, each before its round key is used: before round key 10, the block. -/
def invCipherState (b : Block) (rk : Schedule) : Fin 11 → Block := Fin.snoc (inverseRoundState b rk) b

theorem invCipherState_castSucc (b : Block) (rk : Schedule) (r : Fin 10) :
    invCipherState b rk r.castSucc = inverseRoundState b rk r := Fin.snoc_castSucc ..

/-- Settles O23: the fold over the falling round numbers, state by state. -/
theorem invCipherRunsTenRounds : Obligations.InvCipherRunsTenRounds := by
  intro b rk
  refine ⟨invCipherState b rk, ?initial, fun r => ?round, ?final⟩
  case initial => exact (invCipherState_castSucc b rk 9).trans (inverseRoundState_last b rk)
  case round =>
    calc invCipherState b rk r.castSucc.castSucc
      _ = inverseRoundState b rk r.castSucc := invCipherState_castSucc b rk r.castSucc
      _ = inverseRound (inverseRoundState b rk r.succ) _ := inverseRoundState_castSucc b rk r
      _ = inverseRound (invCipherState b rk r.succ.castSucc) _ := by rw [invCipherState_castSucc]
  case final =>
    calc invCipher b rk
      _ = inverseFinal (inverseRoundState b rk 0) rk[0] := invCipher_eq_inverseFinal b rk
      _ = inverseFinal (invCipherState b rk 0) rk[0] :=
        congrArg (inverseFinal · _) (invCipherState_castSucc b rk 0).symm

end Sys2Proof

namespace Sys2Proof.Machine

/-! ### DEC, alone and after ENC -/

/-- Settles O31: the word of the code and the packed block, and the outcome for each value of `SV`. -/
theorem decCompletes : Obligations.DecCompletes := by
  intro block s
  have hword : decode (commandWord 0b11#2 (packPort block)) = .command (.dec block) :=
    (decode_decCode _).trans (by rw [bytesOfPort_packPort])
  exact ⟨hword, fun hs => ⟨_, exec_dec_of_sv hs block, rfl, rfl, rfl, rfl, rfl, rfl, rfl, rfl⟩,
    exec_without_schedule rfl⟩

/-- Settles O38: the DEC finds the schedule that the KEYEXP has written and the ENC has kept. -/
theorem encryptThenDecryptRestores : Obligations.EncryptThenDecryptRestores := by
  intro key block s
  have hback : invCipher (cipher block (keyExpansion key)) (keyExpansion key) = block := invCipher_cipher _ block
  exact ⟨_, _, _, cipher block (keyExpansion key), exec_keyexp key s, exec_enc_of_sv rfl block, rfl,
    exec_dec_of_sv rfl _, congrArg some hback, hback, cipher_invCipher _ block⟩

end Sys2Proof.Machine
end

section
/-! Proofs of the family 60_exceptions.md: the one fault of a command, and the time between a loss of power and the next
Reset. -/

namespace Sys2Proof.Machine

/-! ### A transform without a schedule -/

/-- The one fault of a command, and its cause (R158). -/
theorem exec_fault {i : Instr} {s : State} {f : Fault} (h : exec i s = .fault f) :
    f = .noSchedule ∧ needsSchedule i = true ∧ s.sv = false := by
  obtain ⟨t, ht⟩ | ⟨hi, hs, hf⟩ := exec_stops i s
  · simp [ht] at h
  · exact ⟨Host.Outcome.fault.inj (h.symm.trans hf), hi, hs⟩

theorem exec_ne_refused (i : Instr) (s : State) (r : Refusal) : exec i s ≠ .refused r := by
  obtain ⟨t, ht⟩ | ⟨-, -, hf⟩ := exec_stops i s
  · simp [ht]
  · simp [hf]

/-- Settles O32: the two codes decode to transforms, which fault alike in a transaction and at an acceptance. -/
theorem transformWithoutScheduleFaults : Obligations.TransformWithoutScheduleFaults := by
  have htransform {op : BitVec 2} (hop : op = 0b10#2 ∨ op = 0b11#2) (din : BitVec 128) :
      ∃ i, decode (commandWord op din) = .command i ∧ needsSchedule i = true := by
    obtain ⟨h0, h1⟩ : op ≠ 0b00#2 ∧ op ≠ 0b01#2 := by obtain rfl | rfl := hop <;> decide
    exact decode_transformCode h0 h1 din
  refine ⟨fun _ _ _ => exec_fault, exec_ne_refused,
    fun block s hs => ⟨exec_without_schedule rfl hs, exec_without_schedule rfl hs⟩,
    fun s op din rest hp hs hop hh => ?offer, fun s op din rest hp hs hop hh => ?edge⟩
  case offer =>
    obtain ⟨i, hd, hi⟩ := htransform hop din
    exact (step_offer hp hh hd).trans (exec_without_schedule hi hs)
  case edge =>
    obtain ⟨i, hd, hi⟩ := htransform hop din
    calc step s = clockEdge ⟨false, true, op, din⟩ (s.setHost rest) := step_edge hh
      _ = accept i (s.setHost rest) := clockEdge_offer hp rfl rfl hd
      _ = .fault .noSchedule := accept_without_schedule hi hs

/-! ### Before the first Reset -/

/-- Before the first Reset no port is specified (R177). -/
theorem outputs_unreset {s : State} (hp : s.phase = .unreset) : s.outputs = none := by
  simp [State.outputs, hp]

/-- Before the first Reset every move but a Reset and a loss of power is refused (R177, U8). -/
theorem step_unreset_refused {s : State} {m : HostMove} {rest : List HostMove} (hp : s.phase = .unreset)
    (hh : s.host = m :: rest) (hm : m.resets = false) (hpower : m ≠ .power) : step s = .refused .beforeReset := by
  cases m with
  | reset => cases hm
  | power => exact absurd rfl hpower
  | command op din => exact (step_command hh).trans (whenReady_unreset hp _)
  | read u => exact (step_read hh).trans (whenReady_unreset hp _)
  | edge p => exact (step_edge hh).trans (clockEdge_unreset hp hm)

/-- Settles O52: the loss of power leaves a core before its first Reset, and a Reset leaves a ready one. -/
theorem powerUpNeedsReset : Obligations.PowerUpNeedsReset := by
  intro s rest hh
  refine ⟨_, step_power hh, rfl, outputs_unreset rfl, fun m more hrest hm hpower => ?refused,
    fun m more hrest hm => ?reset⟩
  case refused => exact step_unreset_refused rfl hrest hm hpower
  case reset => exact ⟨_, step_resets hrest hm, outputs_idle rfl⟩

end Sys2Proof.Machine
end
